-- ==== Sys2Proof/Word.lean ====
section
/-!
DEFINITION. The words FXCORE moves, and the plainest arithmetic on them (00_scope.md R6, R9).
-/

namespace Sys2Proof

/-- A 32-bit word: a Q16.16 value, a signed integer or a binary32 pattern (R6, R7). -/
abbrev Word := BitVec 32

/-- A 64-bit word: operand word A and result word Y (R23). -/
abbrev DWord := BitVec 64

/-- The command word CMD (R37). -/
abbrev Cmd := BitVec 8

/-- `u32(v)` of R9: the low 32 bits of an exact integer. The `s32` reading of a word is `BitVec.toInt`. -/
abbrev toWord (v : Int) : Word := BitVec.ofInt 32 v

/-- `zext64` of R9: a 32-bit result in a 64-bit field, bits [63:32] zero. -/
abbrev zext64 (w : Word) : DWord := w.setWidth 64

end Sys2Proof
end

