-- ==== Sys2Proof/Machine/Constants.lean ====
section
/-!
DEFINITION. The wired constants of 00_scope.md R8.
-/

namespace Sys2Proof.Machine

/-- ONE (R8): 1.0. -/
def one : Word := 0x00010000#32

/-- MAX (R8). -/
def maxWord : Word := 0x7FFFFFFF#32

/-- MIN (R8): also the sentinel. -/
def minWord : Word := 0x80000000#32

/-- PI (R8): 205887. -/
def pi : Word := 0x0003243F#32

/-- E (R8): 178145; no command uses it. -/
def eulerE : Word := 0x0002B7E1#32

/-- HALF_PI (R8, D18): PI >> 1 = 102943. -/
def halfPi : Word := 0x0001921F#32

/-- TWO_PI (R8): PI << 1 = 411774. -/
def twoPi : Word := 0x0006487E#32

/-- LUT_COUNT (R6, R8): the number of entries of SIN_LUT. -/
def lutCount : Nat := 102944

end Sys2Proof.Machine
end

