-- ==== Sys2Proof/Config.lean ====
section
/-!
DEFINITION. The configuration record of 00_scope.md R5, fixed when the block is elaborated (10_state.md R17),
and the one value the spec leaves free (40_converter.md R51).
-/

namespace Sys2Proof

/-- OVF_VALUE (R5, D13): what a C-mode command returns when it overflows. -/
inductive OvfValue where
  | wrapped
  | sentinel
deriving DecidableEq, Repr

/-- SAT_DETECT (R5, D14): what makes an S-mode command saturate. -/
inductive SatDetect where
  | flag
  | sentinel
deriving DecidableEq, Repr

/-- FLOAT_OOR (R5, D9): what STOX and DTOX do with a float beyond 32 bits. -/
inductive FloatOor where
  | wrap
  | saturate
deriving DecidableEq, Repr

/-- WRAPPER_ENDIAN (R28): the byte order of a bus wrapper; no rule reads it. -/
inductive Endian where
  | little
  | big
deriving DecidableEq, Repr

/-- WRAPPER_MAP (R31): where a memory-mapped wrapper places CMD, A, B and the response; no rule reads it. -/
structure WrapperMap where
  cmd : Nat
  a   : Nat
  b   : Nat
  rsp : Nat
deriving DecidableEq, Repr

/-- The four fields of R5 that a command rule reads beside SIN_LUT. -/
structure Policy where
  /-- NO_ROUNDING (R16): true truncates, false rounds to nearest with ties away from zero. -/
  noRounding : Bool
  ovfValue   : OvfValue
  satDetect  : SatDetect
  floatOor   : FloatOor
deriving DecidableEq, Repr

/-- The default or spec choice of each field (R5). -/
def Policy.standard : Policy :=
  { noRounding := false, ovfValue := .wrapped, satDetect := .flag, floatOor := .wrap }

/-- SIN_LUT (R18) as plain data: the entries that differ from the candidate table of R111, as (index, entry)
pairs. Every table of 102944 words has exactly one canonical form (Machine/SinLut.lean). DESIGN CHOICE, safe: log 4. -/
abbrev SinLut := List (Nat × Word)

/-- The configuration record (R5). -/
structure Config where
  policy        : Policy
  sinLut        : SinLut
  /-- LATENCY (R130): at least 1; no rule reads it. -/
  latency       : Nat
  /-- DEPTH (R25): the largest length of the in-flight queue, at least 1. -/
  depth         : Nat
  wrapperEndian : Endian
  wrapperMap    : WrapperMap
deriving DecidableEq, Repr

/-- The configuration at reset: the defaults and spec choices of R5; DESIGN CHOICE for the OPEN fields (log 4, log 5). -/
def Config.standard : Config :=
  { policy := .standard
    sinLut := []
    latency := 1
    depth := 2
    wrapperEndian := .little
    wrapperMap := ⟨0, 0, 0, 0⟩ }

/-- The two IEEE 754 formats of R11. -/
inductive FloatFormat where
  | binary32
  | binary64
deriving DecidableEq, Repr

/-- THE FREE VALUE of R51 (I6): the 32-bit result of STOX or DTOX when the scaled operand is NaN or infinite and
FLOAT_OOR = WRAP. It has no body: nothing can be proved of its value. It is applied to the four policy fields, the
format and the operand bits: R2 and R30 make every response a function of the configuration and the command, and no
other field may reach it (R130 for LATENCY and DEPTH, R28 and R31 for the wrapper, R18 for SIN_LUT). Safe: log 3. -/
opaque Config.nonFiniteDraw : Policy → FloatFormat → BitVec 64 → Word

end Sys2Proof
end

