-- ==== Sys2Proof/Machine/Float.lean ====
section
/-!
DEFINITION. The floating-point primitives of 00_scope.md R11, for binary32 and binary64, on exact values.
-/

namespace Sys2Proof.Machine

/-- Fraction bits (R11). -/
def fracBits : FloatFormat → Nat
  | .binary32 => 23
  | .binary64 => 52

/-- Exponent bits (R11). -/
def expBits : FloatFormat → Nat
  | .binary32 => 8
  | .binary64 => 11

/-- The exponent bias, also the largest exponent of a finite value. -/
def bias (f : FloatFormat) : Nat := 2 ^ (expBits f - 1) - 1

/-- The exponent of the last place of a subnormal: -149 or -1074. -/
def minExp (f : FloatFormat) : Int := 1 - (bias f : Int) - (fracBits f : Int)

/-- `val_F` (R11): NaN, an infinity, or the real (-1)^neg x mant x 2^exp. A zero keeps its sign. -/
inductive FloatVal where
  | nan
  | infinite (neg : Bool)
  | finite (neg : Bool) (mant : Nat) (exp : Int)
deriving DecidableEq, Repr

/-- Number of bits of a natural number. -/
def bitLength (m : Nat) : Nat := if m = 0 then 0 else Nat.log2 m + 1

/-- m / 2^k to nearest, ties to even. -/
def roundEven (m k : Nat) : Nat :=
  let d := m / 2 ^ k
  let r := 2 * (m % 2 ^ k)
  if r > 2 ^ k || (r == 2 ^ k && d % 2 == 1) then d + 1 else d

/-- The exponent of the last place of a value m x 2^e, m not 0, in format F. -/
def quantum (f : FloatFormat) (m : Nat) (e : Int) : Int :=
  max (e + bitLength m - (fracBits f + 1)) (minExp f)

/-- `rne_F` (R11) of (-1)^neg x m x 2^e. -/
def rne (f : FloatFormat) (neg : Bool) (m : Nat) (e : Int) : FloatVal :=
  if m = 0 then .finite neg 0 (minExp f)
  else
    let u := quantum f m e
    let r := if u ≤ e then m * 2 ^ (e - u).toNat else roundEven m (u - e).toNat
    if u + bitLength r > (bias f : Int) + 1 then .infinite neg else .finite neg r u

/-- `val_F(bits)` (R11). -/
def valF (f : FloatFormat) (bits : BitVec 64) : FloatVal :=
  let n := bits.toNat
  let frac := n % 2 ^ fracBits f
  let ex := (n / 2 ^ fracBits f) % 2 ^ expBits f
  let neg := n.testBit (fracBits f + expBits f)
  if ex = 2 ^ expBits f - 1 then (if frac = 0 then .infinite neg else .nan)
  else if ex = 0 then .finite neg frac (minExp f)
  else .finite neg (2 ^ fracBits f + frac) (minExp f + ex - 1)

/-- The bit pattern of format F with the given fields. -/
def packF (f : FloatFormat) (neg : Bool) (ex frac : Nat) : BitVec 64 :=
  BitVec.ofNat 64 ((if neg then 2 ^ (fracBits f + expBits f) else 0) + ex * 2 ^ fracBits f + frac)

/-- `bits_F(x)` (R11) of an exactly representable x: zero is +0.0, whatever sign the zero has. For NaN, which no rule
encodes, it is the quiet NaN (log 15). -/
def bitsF (f : FloatFormat) : FloatVal → BitVec 64
  | .nan => packF f false (2 ^ expBits f - 1) (2 ^ (fracBits f - 1))
  | .infinite neg => packF f neg (2 ^ expBits f - 1) 0
  | .finite neg m e =>
    if m = 0 then packF f false 0 0
    else
      let u := quantum f m e
      let sig := if u ≤ e then m * 2 ^ (e - u).toNat else m / 2 ^ (u - e).toNat
      if sig < 2 ^ fracBits f then packF f neg 0 sig
      else packF f neg (u - minExp f + 1).toNat (sig - 2 ^ fracBits f)

/-- `cvt_F(n)` (R11). -/
def cvtF (f : FloatFormat) (n : Int) : FloatVal := rne f (decide (n < 0)) n.natAbs 0

/-- `fmul_F` (R11). -/
def fmul (f : FloatFormat) : FloatVal → FloatVal → FloatVal
  | .nan, _ => .nan
  | _, .nan => .nan
  | .infinite s, .infinite t => .infinite (s != t)
  | .infinite s, .finite t m _ => if m = 0 then .nan else .infinite (s != t)
  | .finite s m _, .infinite t => if m = 0 then .nan else .infinite (s != t)
  | .finite s m d, .finite t n e => rne f (s != t) (m * n) (d + e)

/-- (-1)^neg x m as an integer. -/
def signed (neg : Bool) (m : Nat) : Int := if neg then -(m : Int) else m

/-- `fadd_F` (R11). An exact zero sum is +0 unless both operands are negative. -/
def fadd (f : FloatFormat) : FloatVal → FloatVal → FloatVal
  | .nan, _ => .nan
  | _, .nan => .nan
  | .infinite s, .infinite t => if s = t then .infinite s else .nan
  | .infinite s, .finite _ _ _ => .infinite s
  | .finite _ _ _, .infinite t => .infinite t
  | .finite s m d, .finite t n e =>
    let x := min d e
    let sum := signed s (m * 2 ^ (d - x).toNat) + signed t (n * 2 ^ (e - x).toNat)
    rne f (if sum = 0 then s && t else decide (sum < 0)) sum.natAbs x

/-- The negated value. -/
def fneg : FloatVal → FloatVal
  | .nan => .nan
  | .infinite s => .infinite (!s)
  | .finite s m e => .finite (!s) m e

/-- `fsub_F` (R11). -/
def fsub (f : FloatFormat) (x y : FloatVal) : FloatVal := fadd f x (fneg y)

/-- `rne_F` of the rational (-1)^neg x (m / n) x 2^e, n not 0: `keep` more quotient bits than m has bits, and one
bit below them that says whether anything was left, decide the rounding. -/
def rneQuotient (f : FloatFormat) (keep : Nat) (neg : Bool) (m n : Nat) (e : Int) : FloatVal :=
  let w := m * 2 ^ keep
  rne f neg (2 * (w / n) + (if w % n = 0 then 0 else 1)) (e - keep - 1)

/-- `fdiv_F` (R11). -/
def fdiv (f : FloatFormat) : FloatVal → FloatVal → FloatVal
  | .nan, _ => .nan
  | _, .nan => .nan
  | .infinite _, .infinite _ => .nan
  | .infinite s, .finite t _ _ => .infinite (s != t)
  | .finite s _ _, .infinite t => .finite (s != t) 0 (minExp f)
  | .finite s m d, .finite t n e =>
    if n = 0 then (if m = 0 then .nan else .infinite (s != t))
    else rneQuotient f 128 (s != t) m n (d - e)

/-- `x >= 0` (R50, D8): true for both zeros, false for NaN. -/
def FloatVal.nonneg : FloatVal → Bool
  | .nan => false
  | .infinite neg => !neg
  | .finite neg m _ => !neg || m == 0

/-- `trunc(x)` of a finite value (R11). -/
def truncF (neg : Bool) (m : Nat) (e : Int) : Int :=
  signed neg (if 0 ≤ e then m * 2 ^ e.toNat else m / 2 ^ (-e).toNat)

/-- 65536.0, exact in both formats. -/
def float65536 : FloatVal := .finite false 1 16

/-- 0.5, exact in both formats. -/
def floatHalf : FloatVal := .finite false 1 (-1)

end Sys2Proof.Machine
end

