-- ==== Sys2Proof/Machine/SinLut.lean ====
section
/-!
DEFINITION. The ROM SIN_LUT (10_state.md R18, 46_trig.md R102, R111): the candidate contents, the canonical form of
a table, and its one read.
-/

namespace Sys2Proof.Machine

/-- The divisors 2n(2n+1) of the sine series, innermost first. -/
def sineDivisors : List Nat := [600, 506, 420, 342, 272, 210, 156, 110, 72, 42, 20, 6]

/-- sin(i / 65536) x 2^64, by the series x(1 - x²/6(1 - x²/20(1 - ...))) in integers scaled by 2^64. -/
def sineScaled (i : Nat) : Nat :=
  let x := i * 2 ^ 48
  let xx := x * x / 2 ^ 64
  let series := sineDivisors.foldl (fun acc d => 2 ^ 64 - xx * acc / (d * 2 ^ 64)) (2 ^ 64)
  x * series / 2 ^ 64

/-- The candidate contents of R111: floor(sin(i / 65536) x 65536 + 0.5). The bound by ONE is sin <= 1: it changes no
entry. Entry for entry this table has R111's sum and R111's SHA-256 (checked outside Lean: log 4). -/
def candidateEntry (i : Nat) : Word :=
  BitVec.ofNat 32 (min ((sineScaled i + 2 ^ 47) / 2 ^ 48) 65536)

/-- `SIN_LUT[i]` (R10, R18). -/
def lutRead (t : SinLut) (i : Nat) : Word :=
  (t.lookup i).getD (candidateEntry i)

/-- Elaboration (R122): the table `t` with entry `i` set to `w`, in canonical form again. -/
def lutSet (t : SinLut) (i : Nat) (w : Word) : SinLut :=
  match t with
  | [] => if w = candidateEntry i then [] else [(i, w)]
  | (j, v) :: rest =>
    if i < j then (if w = candidateEntry i then (j, v) :: rest else (i, w) :: (j, v) :: rest)
    else if i = j then (if w = candidateEntry i then rest else (i, w) :: rest)
    else (j, v) :: lutSet rest i w

/-- The canonical form: indices strictly rising from at least `from_` and below LUT_COUNT, and no entry equal to the
candidate's. -/
def lutCanonicalFrom (from_ : Nat) : SinLut → Bool
  | [] => true
  | (i, w) :: rest => decide (from_ ≤ i) && decide (i < lutCount) && decide (w ≠ candidateEntry i)
      && lutCanonicalFrom (i + 1) rest

/-- Equal tables are equal data. -/
def lutCanonical (t : SinLut) : Bool := lutCanonicalFrom 0 t

end Sys2Proof.Machine
end

