-- ==== Sys2Proof/Syntax.lean ====
section
/-!
DEFINITION. The commands of FXCORE (30_encoding.md R40), the request that carries one on the port (R37), and host
programs (R46).
-/

namespace Sys2Proof

/-- One constructor per row of spec/opcode_table.json, with the operands the row reads (R41). A binary command
reads two Q16.16 words; a unary command one word; `dtox` the whole of A. -/
inductive Instr where
  | addW (a b : Word)
  | addC (a b : Word)
  | addS (a b : Word)
  | subW (a b : Word)
  | subC (a b : Word)
  | subS (a b : Word)
  | mulW (a b : Word)
  | mulC (a b : Word)
  | mulS (a b : Word)
  | divW (a b : Word)
  | divC (a b : Word)
  | divS (a b : Word)
  | sqrt (a : Word)
  | sin (x : Word)
  | cos (x : Word)
  | tan (x : Word)
  | itox (n : Word)
  | xtoi (a : Word)
  | stox (x : Word)
  | xtos (a : Word)
  | dtox (x : DWord)
  | xtod (a : Word)
  | floor (a : Word)
  | ceil (a : Word)
deriving DecidableEq, Repr

/-- What the request port carries in one handshake (R37, R30): CMD and the two operand words. -/
structure Request where
  cmd : Cmd
  a   : DWord
  b   : Word
deriving DecidableEq, Repr

/-- An operand of a host program (R46): a word, or `%k`, the result word of command k's response. -/
inductive Operand where
  | word (w : DWord)
  | result (k : Nat)
deriving DecidableEq, Repr

/-- One command of a host program (R46, R132). -/
structure HostCommand where
  cmd : Cmd
  a   : Operand
  b   : Operand
deriving DecidableEq, Repr

end Sys2Proof
end

