-- ==== Sys2Proof/WellFormed.lean ====
section
/-!
DEFINITION. What is well formed: a command word (30_encoding.md R38, R39, R44), a host program (R46,
93_implementation_defined.md I16) and a configuration record (00_scope.md R5). An `Instr` needs no check: its fields
take every value of their words, and every such command is total (60_exceptions.md R112).
-/

namespace Sys2Proof

/-- R44: MODE 0b11 is reserved for FUNC 0x00 to 0x03, every MODE but 0 for FUNC 0x04 to 0x0F, and FUNC 0x10 on. -/
def legalFields (func : BitVec 6) (mode : BitVec 2) : Bool :=
  if func.toNat ≤ 0x03 then decide (mode ≠ 3#2)
  else if func.toNat ≤ 0x0F then decide (mode = 0#2)
  else false

/-- One of the 24 legal CMD values of R40. -/
def legalCmd (c : Cmd) : Bool := legalFields (c.extractLsb' 2 6) (c.extractLsb' 0 2)

/-- `%k` names one of the `earlier` commands before it (R46, R128); commands are numbered from 1. -/
def Operand.wellFormed (earlier : Nat) : Operand → Bool
  | .word _ => true
  | .result k => decide (1 ≤ k) && decide (k ≤ earlier)

/-- An assembler has no mnemonic for a reserved CMD (I16), and an operand names an earlier response. -/
def HostCommand.wellFormed (earlier : Nat) (c : HostCommand) : Bool :=
  legalCmd c.cmd && c.a.wellFormed earlier && c.b.wellFormed earlier

/-- The commands of a host program after its first `earlier` ones. -/
def programWellFormedFrom (earlier : Nat) : List HostCommand → Bool
  | [] => true
  | c :: rest => c.wellFormed earlier && programWellFormedFrom (earlier + 1) rest

/-- A well-formed host program (R46, R132). -/
def programWellFormed (p : List HostCommand) : Bool := programWellFormedFrom 0 p

/-- R5: LATENCY and DEPTH are at least 1; and the table is in its one canonical form. -/
def Config.wellFormed (c : Config) : Bool :=
  decide (1 ≤ c.latency) && decide (1 ≤ c.depth) && Machine.lutCanonical c.sinLut

end Sys2Proof
end

