-- ==== Sys2Proof/Decode.lean ====
section
/-!
DEFINITION. The decoder (30_encoding.md R45), with operand assembly (R41), and the encoder (R40).
-/

namespace Sys2Proof

/-- The three kinds of reserved CMD (R44). -/
inductive ReservedCmd where
  /-- MODE = 0b11 with FUNC 0x00 to 0x03. -/
  | modeOfBinary
  /-- MODE other than 0b00 with FUNC 0x04 to 0x0F. -/
  | modeOfUnary
  /-- FUNC 0x10 and above. -/
  | func
deriving DecidableEq, Repr

/-- BINARY[func] with MODE_NAME[mode] (R38, R39, R45); a and b are A[31:0] and B[31:0] (R41). -/
def decodeBinary (func mode : Nat) (a b : Word) : Except ReservedCmd Instr :=
  match func, mode with
  | 0x00, 0 => .ok (.addW a b)
  | 0x00, 1 => .ok (.addC a b)
  | 0x00, 2 => .ok (.addS a b)
  | 0x01, 0 => .ok (.subW a b)
  | 0x01, 1 => .ok (.subC a b)
  | 0x01, 2 => .ok (.subS a b)
  | 0x02, 0 => .ok (.mulW a b)
  | 0x02, 1 => .ok (.mulC a b)
  | 0x02, 2 => .ok (.mulS a b)
  | 0x03, 0 => .ok (.divW a b)
  | 0x03, 1 => .ok (.divC a b)
  | 0x03, 2 => .ok (.divS a b)
  | _, _ => .error .modeOfBinary

/-- UNARY[func] (R38, R45); the operand is A[31:0], and A[63:0] for DTOX (R41). -/
def decodeUnary (func : Nat) (a : DWord) : Except ReservedCmd Instr :=
  match func with
  | 0x04 => .ok (.sqrt (a.setWidth 32))
  | 0x05 => .ok (.sin (a.setWidth 32))
  | 0x06 => .ok (.cos (a.setWidth 32))
  | 0x07 => .ok (.tan (a.setWidth 32))
  | 0x08 => .ok (.itox (a.setWidth 32))
  | 0x09 => .ok (.xtoi (a.setWidth 32))
  | 0x0A => .ok (.stox (a.setWidth 32))
  | 0x0B => .ok (.xtos (a.setWidth 32))
  | 0x0C => .ok (.dtox a)
  | 0x0D => .ok (.xtod (a.setWidth 32))
  | 0x0E => .ok (.floor (a.setWidth 32))
  | 0x0F => .ok (.ceil (a.setWidth 32))
  | _ => .error .func

/-- FUNC, that is CMD[7:2], as a number (R37). -/
def funcOf (c : Cmd) : Nat := c.toNat / 4

/-- MODE, that is CMD[1:0], as a number (R37). -/
def modeOf (c : Cmd) : Nat := c.toNat % 4

/-- The decoder of R45, total on all 256 CMD values and every operand word. -/
def decode (r : Request) : Except ReservedCmd Instr :=
  if funcOf r.cmd ≤ 0x03 then
    if modeOf r.cmd = 3 then .error .modeOfBinary else decodeBinary (funcOf r.cmd) (modeOf r.cmd) (r.a.setWidth 32) r.b
  else if funcOf r.cmd ≤ 0x0F then
    if modeOf r.cmd ≠ 0 then .error .modeOfUnary else decodeUnary (funcOf r.cmd) r.a
  else .error .func

/-- A request for a command that reads A[31:0] alone; bits not written are zero (R46). -/
def unaryRequest (cmd : Cmd) (a : Word) : Request := ⟨cmd, zext64 a, 0#32⟩

/-- The encoder: the CMD byte of R40, each operand where R41 reads it, every other bit zero (R46). -/
def encode : Instr → Request
  | .addW a b => ⟨0x00#8, zext64 a, b⟩
  | .addC a b => ⟨0x01#8, zext64 a, b⟩
  | .addS a b => ⟨0x02#8, zext64 a, b⟩
  | .subW a b => ⟨0x04#8, zext64 a, b⟩
  | .subC a b => ⟨0x05#8, zext64 a, b⟩
  | .subS a b => ⟨0x06#8, zext64 a, b⟩
  | .mulW a b => ⟨0x08#8, zext64 a, b⟩
  | .mulC a b => ⟨0x09#8, zext64 a, b⟩
  | .mulS a b => ⟨0x0A#8, zext64 a, b⟩
  | .divW a b => ⟨0x0C#8, zext64 a, b⟩
  | .divC a b => ⟨0x0D#8, zext64 a, b⟩
  | .divS a b => ⟨0x0E#8, zext64 a, b⟩
  | .sqrt a => unaryRequest 0x10#8 a
  | .sin x => unaryRequest 0x14#8 x
  | .cos x => unaryRequest 0x18#8 x
  | .tan x => unaryRequest 0x1C#8 x
  | .itox n => unaryRequest 0x20#8 n
  | .xtoi a => unaryRequest 0x24#8 a
  | .stox x => unaryRequest 0x28#8 x
  | .xtos a => unaryRequest 0x2C#8 a
  | .dtox x => ⟨0x30#8, x, 0#32⟩
  | .xtod a => unaryRequest 0x34#8 a
  | .floor a => unaryRequest 0x38#8 a
  | .ceil a => unaryRequest 0x3C#8 a

/-- A command laid out as one number: CMD in bits 7..0, A in bits 71..8, B in bits 103..72. The spec gives the ports
no common numbering; the table numbers CMD alone. DESIGN CHOICE, safe: log 8. -/
def tableRequest (nbits w : Nat) : Request :=
  let bits := BitVec.ofNat 104 (w % 2 ^ nbits)
  ⟨bits.extractLsb' 0 8, bits.extractLsb' 8 64, bits.extractLsb' 72 32⟩

/-- The instruction the decoder reads from a table row's word: bits above `nbits` are zero. -/
def decodeTableWord (nbits w : Nat) : Option Instr :=
  match decode (tableRequest nbits w) with
  | .ok i => some i
  | .error _ => none

end Sys2Proof
end

