-- ==== Sys2Proof/Machine/State.lean ====
section
/-!
DEFINITION. The state of FXCORE (10_state.md R15, R23 to R26), what the host holds (60_exceptions.md R122), the
reasons a step can stop, and the state after reset.
-/

namespace Sys2Proof.Machine

/-- A response (R13, R21): the result word Y and the two flags, valid with this response only. -/
structure Response where
  y   : DWord
  v   : Bool
  ill : Bool
deriving DecidableEq, Repr

/-- What others decide about one rising edge: the host's inputs (R122), and the two timing choices the spec leaves
to the implementation (R25, R130). -/
structure Edge where
  /-- The host drives rst (R123). -/
  rst      : Bool := false
  /-- The command the host presents, `none` for req_valid = 0. -/
  req      : Option HostCommand := none
  /-- The host drives rsp_ready. -/
  rspReady : Bool := true
  /-- The host samples rsp_y, rsp_v and rsp_ill at this edge. -/
  rspRead  : Bool := false
  /-- What configuration pins show, where an implementation has them (R17). -/
  strap    : Option Policy := none
  /-- FXCORE's open choice (I9): it would raise req_ready at this edge. -/
  ready    : Bool := true
  /-- FXCORE's open choice (I7): the oldest response becomes valid at this edge. Not read while a response is valid
  already (log 22). -/
  answer   : Bool := true
deriving DecidableEq, Repr

/-- The machine between two rising edges of clk, with every pin as it stands for the coming edge. -/
structure State where
  /-- The elaborated configuration (R5, R15, R17); no step writes it. -/
  cfg      : Config
  /-- rst, in. -/
  rst      : Bool
  /-- req_valid, in. -/
  reqValid : Bool
  /-- req_ready, out. -/
  reqReady : Bool
  /-- req_cmd, in. -/
  reqCmd   : Cmd
  /-- req_a, in. -/
  reqA     : DWord
  /-- req_b, in. -/
  reqB     : Word
  /-- rsp_ready, in. -/
  rspReady : Bool
  /-- rsp_valid, rsp_y, rsp_v and rsp_ill, out: `none` is rsp_valid = 0, where the three hold no value (R26, I10). -/
  rsp      : Option Response
  /-- The in-flight queue Q, oldest first: accepted commands not yet delivered, each as its response (R25). -/
  q        : List Response
  /-- The host samples the response outputs at the coming edge (R122, R129). -/
  rspRead  : Bool
  /-- Configuration pins, where an implementation has them (R17). -/
  strap    : Option Policy
  /-- The request presented at the last edge and not accepted there: the host holds it (R129). -/
  held     : Option Request
  /-- The responses the host has taken, oldest first: the end state of a run (R132). -/
  taken    : List Response
  /-- The model's own field: the edges after the coming one (log 2). -/
  agenda   : List Edge
deriving DecidableEq, Repr

/-- The stops that are host behaviour outside the spec. -/
inductive Fault where
  /-- Raised by an edge at which the host changed or withdrew a request it had to hold (R129, I14: the model gives
  it no move). Safe: the hardware goes on, and the spec says nothing of such a run. -/
  | hostBrokeHold
  /-- Raised by an edge at which the host samples rsp_y, rsp_v or rsp_ill while rsp_valid = 0 (R26, R122, I10). Safe:
  the values are unspecified, so the run stops where the hardware shows some value. -/
  | readWithoutResponse
deriving DecidableEq, Repr

/-- The runs the model refuses. -/
inductive Refusal where
  /-- Raised by an arm of exec that has no meaning yet (no arm of this model). Safe. -/
  | notModelled (mnemonic : String)
  /-- Raised by an edge whose configuration pins differ from the elaborated configuration (R17, R126, I12). Safe: such
  a run has no meaning in the spec. -/
  | configChanged
  /-- Raised by every edge of an elaboration whose SIN_LUT breaks constraints 1 to 3 of R111 (R126, I13). Safe: it is
  not this hardware. -/
  | sinLutRejected
deriving DecidableEq, Repr

/-- A step's outcome on this machine. -/
abbrev Outcome := Host.Outcome State Fault Refusal

/-- The clean state (R26, R124): the first cycle with rst = 0, Q empty, rsp_valid = 0, an idle host. DESIGN CHOICE for
req_ready and the host's pins: log 7. -/
def State.reset : State :=
  { cfg := Config.standard
    rst := false
    reqValid := false
    reqReady := true
    reqCmd := 0
    reqA := 0
    reqB := 0
    rspReady := true
    rsp := none
    q := []
    rspRead := false
    strap := none
    held := none
    taken := []
    agenda := [] }

end Sys2Proof.Machine
end

