-- ==== Sys2Proof/Machine/Ops.lean ====
section
/-!
DEFINITION. The named operations every edge and every command goes through: answering a command, the illegal-command
exception (60_exceptions.md R113), and the handshake (10_state.md R24, R25; 70_reset_and_hazards.md R123, R129).
-/

namespace Sys2Proof.Machine

/-- Accept a command whose response is `r`: append it to Q, and do nothing else (R25, R30). -/
def respond (r : Response) (s : State) : Outcome :=
  .next { s with q := s.q ++ [r] }

/-- The illegal-command response (R113). -/
def illegalResponse : Response := { y := 0#64, v := false, ill := true }

/-- `raise IllegalCommand(cmd)`, FXCORE's only exception (R113): one response in its place in the order, and no other
state changes. It saves nothing, transfers no control and needs no return (R117). -/
def raiseIllegalCommand (s : State) : Outcome := respond illegalResponse s

/-- The request on the port (R23). -/
def State.request (s : State) : Request := ⟨s.reqCmd, s.reqA, s.reqB⟩

/-- A command is accepted at this edge (R24). -/
def State.accepts (s : State) : Bool := !s.rst && s.reqValid && s.reqReady

/-- The host leaves a request it presented at the last edge waiting, changed or withdrawn (R129). -/
def State.holdBroken (s : State) : Bool :=
  match s.held with
  | none => false
  | some r => !(s.reqValid && decide (s.request = r))

/-- The configuration pins, if any, show the elaborated configuration (R17, R126). -/
def State.strapHeld (s : State) : Bool :=
  match s.strap with
  | none => true
  | some p => decide (p = s.cfg.policy)

/-- Delivery (R24, R25): a valid response the host is ready for leaves Q, and the host has it. -/
def deliver (s : State) : State :=
  match s.rsp with
  | none => s
  | some r => if s.rspReady then { s with q := s.q.tail, rsp := none, taken := s.taken ++ [r] } else s

/-- The request the host has to hold after an edge with rst = 0 (R24 item 4, R129). -/
def noteHeld (s : State) : State :=
  { s with held := if s.reqValid && !s.reqReady then some s.request else none }

/-- An edge with rst = 1 (R123): Q is emptied, rsp_valid is 0, nothing is accepted or delivered, the configuration
is not touched. A request that stood at the pins need not be held past it (DEDUCED, safe: log 9). -/
def resetEdge (s : State) : State :=
  { s with q := [], rsp := none, held := none }

/-- The word an operand of a host program stands for, once the host has it (R46, R128): `%k` is response k's Y. -/
def operandWord (taken : List Response) : Operand → Option DWord
  | .word w => some w
  | .result 0 => none
  | .result (k + 1) => (taken[k]?).map Response.y

/-- The request a host command makes, once its operands are known (R128). -/
def hostRequest (taken : List Response) (c : HostCommand) : Option Request :=
  match operandWord taken c.a, operandWord taken c.b with
  | some a, some b => some ⟨c.cmd, a, b.setWidth 32⟩
  | _, _ => none

/-- req_ready at the coming edge: FXCORE's choice, but never so that Q would pass DEPTH (R25). -/
def readyAt (s : State) (choice : Bool) (rsp : Option Response) (rspReady : Bool) : Bool :=
  choice && (decide (s.q.length < s.cfg.depth) || (rsp.isSome && rspReady))

/-- The response outputs at the coming edge: a valid response stays valid, with its values, until it is taken or reset
comes; otherwise the oldest of Q, when FXCORE's latency has passed (R130). R24 item 3 holds the three values; that
rsp_valid itself is never dropped is the model's DESIGN CHOICE, unsafe: log 22. -/
def responseAt (s : State) (answer : Bool) : Option Response :=
  match s.rsp with
  | some r => some r
  | none => if answer then s.q.head? else none

/-- Set every pin for the coming edge, with `req` on the request port. -/
def drive (s : State) (e : Edge) (req : Option Request) : State :=
  let rsp := responseAt s e.answer
  let port := req.getD s.request
  { s with
    rst := e.rst
    reqValid := req.isSome
    reqReady := readyAt s e.ready rsp e.rspReady
    reqCmd := port.cmd
    reqA := port.a
    reqB := port.b
    rspReady := e.rspReady
    rsp := rsp
    rspRead := e.rspRead
    strap := e.strap }

/-- An edge nothing was planned for: the host holds a waiting request, presents no other, and takes responses; FXCORE
is ready and answers (fairness, R131). DESIGN CHOICE, unsafe: log 2. -/
def driveIdle (s : State) : State := drive s {} s.held

/-- The request of a planned edge: `none` while an operand of it is not yet in the host's hands (R128). -/
def plannedRequest (s : State) (e : Edge) : Option (Option Request) :=
  match e.req with
  | none => some none
  | some c => (hostRequest s.taken c).map some

/-- Bring the next planned edge to the pins; a host whose next request needs a response it has not taken waits. -/
def present (s : State) : State :=
  match s.agenda with
  | [] => driveIdle s
  | e :: rest =>
    match plannedRequest s e with
    | none => driveIdle s
    | some req => { drive s e req with agenda := rest }

/-- Put a request on the port so that the coming edge accepts it. -/
def loadRequest (r : Request) (s : State) : State :=
  { s with
    rst := false
    reqValid := true
    reqReady := true
    reqCmd := r.cmd
    reqA := r.a
    reqB := r.b
    rspRead := false
    strap := none
    held := none }

end Sys2Proof.Machine
end

