-- ==== Sys2Proof/Machine/Operands.lean ====
section
/-!
DEFINITION. How a command reads its operand words (30_encoding.md R41, 40_converter.md R49) and how its result is
placed in Y (R42).
-/

namespace Sys2Proof.Machine

/-- `s32(A[31:0])` (R10): a Q16.16 value's raw integer, or the operand of ITOX. -/
def fixedOperand (w : Word) : Int := w.toInt

/-- `|a|` as an unsigned 32-bit magnitude (R82, R94): |MIN| = 2^31 fits. -/
def magnitude (w : Word) : Nat := (fixedOperand w).natAbs

/-- `a >= 0` (R9, D31): true for zero. -/
def nonneg (w : Word) : Bool := decide (0 ≤ fixedOperand w)

/-- `val_binary32(A[31:0])` (R49). -/
def float32Operand (w : Word) : FloatVal := valF .binary32 (zext64 w)

/-- `val_binary64(A[63:0])` (R49). -/
def float64Operand (w : DWord) : FloatVal := valF .binary64 w

/-- A 32-bit result without a flag (R42): Y[31:0] = r, Y[63:32] = 0, V = 0, ILL = 0. -/
def wordResponse (r : Word) : Response := { y := zext64 r, v := false, ill := false }

/-- A 64-bit result without a flag (R42, XTOD). -/
def dwordResponse (r : DWord) : Response := { y := r, v := false, ill := false }

end Sys2Proof.Machine
end

