-- ==== Sys2Proof/Machine/Flags.lean ====
section
/-!
DEFINITION. Overflow tests, and the mode rule shared by ADD, SUB, MUL and DIV (42_adder.md R67).
-/

namespace Sys2Proof.Machine

/-- What a family's core returns (R67): the wrapped value and the overflow bit. -/
structure CoreResult where
  w  : Word
  ov : Bool
deriving DecidableEq, Repr

/-- Overflow of an addition a + b = s (R66): the operands agree in sign and the sum does not. -/
def addOverflow (a b s : Word) : Bool := a.msb == b.msb && s.msb != a.msb

/-- Overflow of a subtraction a - b = d (R66). -/
def subOverflow (a b d : Word) : Bool := a.msb != b.msb && d.msb != a.msb

/-- Overflow of a product (R75): bits 63..47 are not all equal to the sign bit. -/
def mulOverflow (p : BitVec 64) : Bool :=
  let hi := p.extractLsb' 47 17
  !(hi == 0x00000#17 || hi == 0x1FFFF#17)

/-- The saturation value of ADD and SUB (R67). -/
def clampBySign (a : Word) : Word := if nonneg a then maxWord else minWord

/-- The saturation value of MUL and DIV (R67, D14). -/
def clampByAgreement (a b : Word) : Word := if nonneg a == nonneg b then maxWord else minWord

/-- Mode W (R67). -/
def modeW (r : CoreResult) : Response := wordResponse r.w

/-- Mode C (R67): the value and V. -/
def modeC (p : Policy) (r : CoreResult) : Response :=
  { y := zext64 (if r.ov && decide (p.ovfValue = .sentinel) then minWord else r.w), v := r.ov, ill := false }

/-- What makes mode S saturate (R67, D14). -/
def saturates (p : Policy) (r : CoreResult) : Bool :=
  match p.satDetect with
  | .flag => r.ov
  | .sentinel => r.ov || decide (r.w = minWord)

/-- Mode S (R67). -/
def modeS (p : Policy) (clamp : Word) (r : CoreResult) : Response :=
  wordResponse (if saturates p r then clamp else r.w)

end Sys2Proof.Machine
end

