-- ==== Sys2Proof/Machine/Adder.lean ====
section
/-!
DEFINITION. fixed_point_adder (42_adder.md).
-/

namespace Sys2Proof.Machine

/-- ADDCORE (R66). -/
def addCore (a b : Word) : CoreResult := { w := a + b, ov := addOverflow a b (a + b) }

/-- SUBCORE (R66). -/
def subCore (a b : Word) : CoreResult := { w := a - b, ov := subOverflow a b (a - b) }

/-- ADD.W (R68). -/
def execAddW (a b : Word) (s : State) : Outcome := respond (modeW (addCore a b)) s

/-- ADD.C (R69). -/
def execAddC (a b : Word) (s : State) : Outcome := respond (modeC s.cfg.policy (addCore a b)) s

/-- ADD.S (R70). -/
def execAddS (a b : Word) (s : State) : Outcome :=
  respond (modeS s.cfg.policy (clampBySign a) (addCore a b)) s

/-- SUB.W (R71). -/
def execSubW (a b : Word) (s : State) : Outcome := respond (modeW (subCore a b)) s

/-- SUB.C (R72). -/
def execSubC (a b : Word) (s : State) : Outcome := respond (modeC s.cfg.policy (subCore a b)) s

/-- SUB.S (R73). -/
def execSubS (a b : Word) (s : State) : Outcome :=
  respond (modeS s.cfg.policy (clampBySign a) (subCore a b)) s

end Sys2Proof.Machine
end

