-- ==== Sys2Proof/Machine/Converter.lean ====
section
/-!
DEFINITION. fixed_point_converter (40_converter.md).
-/

namespace Sys2Proof.Machine

/-- The scaled and rounded operand t of FROMF (R50, D8), every operation in format F. -/
def scaleFloat (f : FloatFormat) (noRounding : Bool) (x : FloatVal) : FloatVal :=
  let t := fmul f x float65536
  if noRounding then t
  else if t.nonneg then fadd f t floatHalf
  else fsub f t floatHalf

/-- F2I (R51) of a finite value. -/
def finiteToWord (oor : FloatOor) (n : Int) : Word :=
  match oor with
  | .wrap => toWord n
  | .saturate =>
    if n > maxWord.toInt then maxWord else if n < minWord.toInt then minWord else toWord n

/-- F2I (R51): `draw` is the free value of a NaN or an infinity under WRAP. -/
def floatToWord (oor : FloatOor) (draw : Word) (t : FloatVal) : Word :=
  match t with
  | .finite neg m e => finiteToWord oor (truncF neg m e)
  | .infinite neg =>
    match oor with
    | .wrap => draw
    | .saturate => if neg then minWord else maxWord
  | .nan =>
    match oor with
    | .wrap => draw
    | .saturate => 0#32

/-- FROMF_F (R50, R51) of the operand whose bits are `bits`. -/
def fromFloat (p : Policy) (f : FloatFormat) (bits : BitVec 64) : Word :=
  floatToWord p.floatOor (Config.nonFiniteDraw p f bits) (scaleFloat f p.noRounding (valF f bits))

/-- The integer of XTOI (R53); the additions do not wrap (D11). -/
def toInteger (noRounding : Bool) (a : Int) : Int :=
  if noRounding then a / 65536
  else if a ≥ 0 then (a + 32768).tdiv 65536
  else (a - 32768).tdiv 65536

/-- The bits of XTOS (R56). -/
def toBinary32 (a : Word) : DWord :=
  bitsF .binary32 (fdiv .binary32 (cvtF .binary32 (fixedOperand a)) float65536)

/-- The bits of XTOD (R57): a / 65536 is exact; zero is +0.0. -/
def toBinary64 (a : Word) : DWord :=
  bitsF .binary64 (.finite (!nonneg a) (magnitude a) (-16))

/-- ITOX (R52). -/
def execItox (n : Word) (s : State) : Outcome :=
  respond (wordResponse (toWord (fixedOperand n * 65536))) s

/-- XTOI (R53). -/
def execXtoi (a : Word) (s : State) : Outcome :=
  respond (wordResponse (toWord (toInteger s.cfg.policy.noRounding (fixedOperand a)))) s

/-- STOX (R54). -/
def execStox (x : Word) (s : State) : Outcome :=
  respond (wordResponse (fromFloat s.cfg.policy .binary32 (zext64 x))) s

/-- DTOX (R55). -/
def execDtox (x : DWord) (s : State) : Outcome :=
  respond (wordResponse (fromFloat s.cfg.policy .binary64 x)) s

/-- XTOS (R56). -/
def execXtos (a : Word) (s : State) : Outcome := respond (dwordResponse (toBinary32 a)) s

/-- XTOD (R57). -/
def execXtod (a : Word) (s : State) : Outcome := respond (dwordResponse (toBinary64 a)) s

end Sys2Proof.Machine
end

