-- ==== Sys2Proof/Machine/Divider.lean ====
section
/-!
DEFINITION. restoring_divider (44_divider.md). The engine works on natural numbers; every assignment keeps the bits
the spec gives the variable (32 for rem and d, 64 for q).
-/

namespace Sys2Proof.Machine

/-- The low 32 bits of an unsigned value. -/
def low32 (n : Nat) : Nat := n % 2 ^ 32

/-- The low 64 bits of an unsigned value. -/
def low64 (n : Nat) : Nat := n % 2 ^ 64

/-- `x - y` in unsigned 32 bits. -/
def sub32 (x y : Nat) : Nat := low32 (x + 2 ^ 32 - low32 y)

/-- `clz32` (R9). -/
def clz32 (x : Nat) : Nat := if x = 0 then 32 else 31 - Nat.log2 x

/-- The divider's variables (R82). -/
structure DivState where
  rem : Nat
  d   : Nat
  q   : Nat
  bp  : Int
  ovf : Bool
deriving DecidableEq, Repr

/-- Initialisation (R82). -/
def divInit (a b : Word) : DivState :=
  { rem := magnitude a, d := magnitude b, q := 0, bp := 17, ovf := false }

/-- Step 1, the seed (R83, D17). -/
def divSeed (e : DivState) : DivState :=
  if e.d &&& 0xFFF00000 = 0 then e
  else
    let q := e.rem / (e.d / 2 ^ 17 + 1)
    { e with q := q, rem := sub32 e.rem (low64 (q * e.d) / 2 ^ 17) }

/-- Step 2, stripping factors of 16 (R84); it runs at most four times. -/
def divStrip : Nat → DivState → DivState
  | 0, e => e
  | fuel + 1, e =>
    if e.d &&& 0xF = 0 ∧ 4 ≤ e.bp then divStrip fuel { e with d := e.d / 16, bp := e.bp - 4 } else e

/-- One pass of the main loop (R85). -/
def divPass (e : DivState) : DivState :=
  let sh := min (clz32 e.rem) e.bp.toNat
  let rem := low32 (e.rem * 2 ^ sh)
  let bp := e.bp.toNat - sh
  let dv := rem / e.d
  { rem := low32 (rem % e.d * 2)
    d := e.d
    q := low64 (e.q + dv * 2 ^ bp)
    bp := (bp : Int) - 1
    ovf := e.ovf || (dv &&& (0xFFFFFFFF - 0xFFFFFFFF / 2 ^ bp)) != 0 }

/-- Step 3, the main loop (R85); it runs at most 18 times (R93). -/
def divLoop : Nat → DivState → DivState
  | 0, e => e
  | fuel + 1, e => if e.rem ≠ 0 ∧ 0 ≤ e.bp then divLoop fuel (divPass e) else e

/-- The engine up to its quotient: steps 1 to 3 (R83 to R85). -/
def divEngine (a b : Word) : DivState := divLoop 18 (divStrip 4 (divSeed (divInit a b)))

/-- Steps 4 and 5 up to the magnitude (R86): round, and take the low 32 bits of q >> 1. -/
def divMagnitude (noRounding : Bool) (q : Nat) : Word :=
  BitVec.ofNat 32 ((if noRounding then q else low64 (q + 1)) / 2)

/-- The sign (R87): when the operand signs differ a magnitude of 2^31 is flagged and the magnitude negated. -/
def divSign (a b m : Word) (ovf : Bool) : CoreResult :=
  if (a ^^^ b).msb then { w := -m, ov := ovf || decide (m = minWord) } else { w := m, ov := ovf }

/-- DIVCORE (R88). A zero divisor gives the sentinel MIN without overflow (R81). -/
def divCore (noRounding : Bool) (a b : Word) : CoreResult :=
  if b = 0#32 then { w := minWord, ov := false }
  else
    let e := divEngine a b
    divSign a b (divMagnitude noRounding e.q) e.ovf

/-- The response of DIV.S (R91), which TAN uses too (R109). -/
def divSResponse (p : Policy) (a b : Word) : Response :=
  modeS p (clampByAgreement a b) (divCore p.noRounding a b)

/-- DIV.W (R89). -/
def execDivW (a b : Word) (s : State) : Outcome := respond (modeW (divCore s.cfg.policy.noRounding a b)) s

/-- DIV.C (R90). -/
def execDivC (a b : Word) (s : State) : Outcome :=
  respond (modeC s.cfg.policy (divCore s.cfg.policy.noRounding a b)) s

/-- DIV.S (R91). -/
def execDivS (a b : Word) (s : State) : Outcome := respond (divSResponse s.cfg.policy a b) s

end Sys2Proof.Machine
end

