-- ==== Sys2Proof/Machine/Multiplier.lean ====
section
/-!
DEFINITION. fixed_point_multiplier (43_multiplier.md).
-/

namespace Sys2Proof.Machine

/-- The exact product (R75); it always fits in 64 bits. -/
def product (a b : Word) : Int := fixedOperand a * fixedOperand b

/-- The rounding of R75: a negative product is decremented, shifted right by 16, and bit 15 added. With NO_ROUNDING
only the shift remains. `/` is the floor, the arithmetic shift of R9. -/
def roundProduct (noRounding : Bool) (p : Int) : Int :=
  if noRounding then p / 65536
  else
    let p := if p < 0 then p - 1 else p
    p / 65536 + (p / 32768) % 2

/-- MULCORE (R75). The overflow test reads the product before the decrement (D27). -/
def mulCore (noRounding : Bool) (a b : Word) : CoreResult :=
  { w := toWord (roundProduct noRounding (product a b)), ov := mulOverflow (BitVec.ofInt 64 (product a b)) }

/-- MUL.W (R76). -/
def execMulW (a b : Word) (s : State) : Outcome := respond (modeW (mulCore s.cfg.policy.noRounding a b)) s

/-- MUL.C (R77). -/
def execMulC (a b : Word) (s : State) : Outcome :=
  respond (modeC s.cfg.policy (mulCore s.cfg.policy.noRounding a b)) s

/-- MUL.S (R78). -/
def execMulS (a b : Word) (s : State) : Outcome :=
  respond (modeS s.cfg.policy (clampByAgreement a b) (mulCore s.cfg.policy.noRounding a b)) s

end Sys2Proof.Machine
end

