-- ==== Sys2Proof/Machine/Rounding.lean ====
section
/-!
DEFINITION. The rounding unit's two commands (41_rounding.md).
-/

namespace Sys2Proof.Machine

/-- FLOOR's result (R63). -/
def floorResult (a : Word) : Word := a &&& 0xFFFF0000#32

/-- CEIL's result (R64); the + ONE wraps (D12). -/
def ceilResult (a : Word) : Word :=
  if a &&& 0x0000FFFF#32 = 0#32 then floorResult a else floorResult a + one

/-- FLOOR (R63). -/
def execFloor (a : Word) (s : State) : Outcome := respond (wordResponse (floorResult a)) s

/-- CEIL (R64). -/
def execCeil (a : Word) (s : State) : Outcome := respond (wordResponse (ceilResult a)) s

end Sys2Proof.Machine
end

