-- ==== Sys2Proof/Machine/SquareRoot.lean ====
section
/-!
DEFINITION. digit_extract_sqrt_engine (45_sqrt.md). num, res and bit are unsigned 32-bit values; every assignment
keeps the low 32 bits (D28).
-/

namespace Sys2Proof.Machine

/-- The engine's running remainder and result (R94). -/
structure RootState where
  num : Nat
  res : Nat
deriving DecidableEq, Repr

/-- Shift the probe right by 2 until it is at most the input (R95). -/
def probeDown : Nat → Nat → Nat → Nat
  | 0, _, bit => bit
  | fuel + 1, num, bit => if bit > num then probeDown fuel num (bit / 4) else bit

/-- The initial probe (R95). A probe of 2^30 reaches 0 in 16 shifts. -/
def initialProbe (num : Nat) : Nat :=
  probeDown 16 num (if num &&& 0xFFF00000 ≠ 0 then 2 ^ 30 else 2 ^ 18)

/-- DIGITS (R96). -/
def digits : Nat → RootState → Nat → RootState
  | 0, r, _ => r
  | fuel + 1, r, bit =>
    if bit = 0 then r
    else
      let r := if r.num ≥ low32 (r.res + bit)
        then { num := sub32 r.num (r.res + bit), res := low32 (r.res / 2 + bit) }
        else { r with res := r.res / 2 }
      digits fuel r (bit / 4)

/-- The transition between the passes (R97). -/
def rescale (r : RootState) : RootState :=
  if r.num > 65535 then
    let num := sub32 r.num r.res
    { num := sub32 (low32 (num * 2 ^ 16)) 0x8000, res := low32 (low32 (r.res * 2 ^ 16) + 0x8000) }
  else { num := low32 (r.num * 2 ^ 16), res := low32 (r.res * 2 ^ 16) }

/-- Both passes (R96 to R98) on a magnitude. -/
def rootEngine (num : Nat) : RootState :=
  digits 16 (rescale (digits 16 { num := num, res := 0 } (initialProbe num))) (2 ^ 14)

/-- Rounding (R99). -/
def roundRoot (noRounding : Bool) (r : RootState) : Nat :=
  if !noRounding && decide (r.num > r.res) then low32 (r.res + 1) else r.res

/-- The result of SQRT (R94 to R101): the root of the magnitude, with the operand's sign restored (R100). -/
def sqrtResult (noRounding : Bool) (a : Word) : Word :=
  let res := BitVec.ofNat 32 (roundRoot noRounding (rootEngine (magnitude a)))
  if nonneg a then res else -res

/-- SQRT (R101). -/
def execSqrt (a : Word) (s : State) : Outcome :=
  respond (wordResponse (sqrtResult s.cfg.policy.noRounding a)) s

end Sys2Proof.Machine
end

