-- ==== Sys2Proof/Machine/Trig.lean ====
section
/-!
DEFINITION. quadrant_reducer_trig and sine_cosine_lut (46_trig.md), and what R111 asks of a table.
-/

namespace Sys2Proof.Machine

/-- Angle reduction into [0, TWO_PI) (R103). -/
def reduceAngle (x : Int) : Int :=
  let t := x.tmod twoPi.toInt
  if t < 0 then t + twoPi.toInt else t

/-- Quadrant selection and reflection (R104): whether the sine is negated, and the first-quadrant angle. -/
def quadrant (t : Int) : Bool × Int :=
  let neg := decide (t ≥ pi.toInt)
  let t := if neg then t - pi.toInt else t
  (neg, if t ≥ halfPi.toInt then pi.toInt - t else t)

/-- Table lookup with the clamp (R105). -/
def sineMagnitude (lut : SinLut) (t : Int) : Word :=
  if t ≥ lutCount then one else lutRead lut t.toNat

/-- SINCORE (R106). -/
def sinCore (lut : SinLut) (x : Word) : Word :=
  let (neg, t) := quadrant (reduceAngle (fixedOperand x))
  let m := sineMagnitude lut t
  if neg then -m else m

/-- The argument of SINCORE in COS (R108, D19): the wrapping sum x + HALF_PI. -/
def cosCore (lut : SinLut) (x : Word) : Word := sinCore lut (x + halfPi)

/-- SIN (R107). -/
def execSin (x : Word) (s : State) : Outcome := respond (wordResponse (sinCore s.cfg.sinLut x)) s

/-- COS (R108). -/
def execCos (x : Word) (s : State) : Outcome := respond (wordResponse (cosCore s.cfg.sinLut x)) s

/-- TAN (R109): DIV.S of sine and cosine, bit for bit. -/
def execTan (x : Word) (s : State) : Outcome :=
  respond (divSResponse s.cfg.policy (sinCore s.cfg.sinLut x) (cosCore s.cfg.sinLut x)) s

/-- Constraints 1 to 3 of R111; an elaboration that breaks one is not this hardware (R126, I13). -/
def lutAccepted (c : Config) : Bool :=
  decide (lutRead c.sinLut 78847 = 0x0000EEE4#32)
    && decide (lutRead c.sinLut 73945 = 0x0000E758#32)
    && decide ((divSResponse { c.policy with noRounding := false }
        (lutRead c.sinLut 11322) (lutRead c.sinLut 91622)).y = 0x00002CAC#64)

end Sys2Proof.Machine
end

