-- ==== Sys2Proof/Machine/Dispatch.lean ====
section
/-!
DEFINITION. One meaning per command (30_encoding.md R40).
-/

namespace Sys2Proof.Machine

/-- What accepting a command does (R24, R25). -/
def exec (i : Instr) (s : State) : Host.Outcome State Fault Refusal :=
  match i with
  | .addW a b => Sys2Proof.Machine.execAddW a b s
  | .addC a b => Sys2Proof.Machine.execAddC a b s
  | .addS a b => Sys2Proof.Machine.execAddS a b s
  | .subW a b => Sys2Proof.Machine.execSubW a b s
  | .subC a b => Sys2Proof.Machine.execSubC a b s
  | .subS a b => Sys2Proof.Machine.execSubS a b s
  | .mulW a b => Sys2Proof.Machine.execMulW a b s
  | .mulC a b => Sys2Proof.Machine.execMulC a b s
  | .mulS a b => Sys2Proof.Machine.execMulS a b s
  | .divW a b => Sys2Proof.Machine.execDivW a b s
  | .divC a b => Sys2Proof.Machine.execDivC a b s
  | .divS a b => Sys2Proof.Machine.execDivS a b s
  | .sqrt a => Sys2Proof.Machine.execSqrt a s
  | .sin x => Sys2Proof.Machine.execSin x s
  | .cos x => Sys2Proof.Machine.execCos x s
  | .tan x => Sys2Proof.Machine.execTan x s
  | .itox n => Sys2Proof.Machine.execItox n s
  | .xtoi a => Sys2Proof.Machine.execXtoi a s
  | .stox x => Sys2Proof.Machine.execStox x s
  | .xtos a => Sys2Proof.Machine.execXtos a s
  | .dtox x => Sys2Proof.Machine.execDtox x s
  | .xtod a => Sys2Proof.Machine.execXtod a s
  | .floor a => Sys2Proof.Machine.execFloor a s
  | .ceil a => Sys2Proof.Machine.execCeil a s

end Sys2Proof.Machine
end

