-- ==== Sys2Proof/Machine/ClockEdge.lean ====
section
/-!
DEFINITION. One rising edge of clk (10_state.md R24, R25; 70_reset_and_hazards.md R123, R126, R129).
-/

namespace Sys2Proof.Machine

/-- The command at the port is accepted: decoded first (60_exceptions.md R115), then run, or answered as illegal. -/
def acceptCommand (s : State) : Outcome :=
  match decode s.request with
  | .ok i => exec i s
  | .error _ => raiseIllegalCommand s

/-- What an edge with rst = 0 does before delivery: accept a command if the handshake accepts one. -/
def acceptance (s : State) : Outcome := if s.accepts then acceptCommand s else .next s

/-- After acceptance: note what the host must hold, deliver, and bring the next edge to the pins. -/
def finishEdge (s : State) : State := present (deliver (noteHeld s))

/-- One rising edge. A run with another configuration, or with a table that is not this hardware's, is refused (R126);
reading a response that is not there is a fault (R122); rst takes precedence over the handshake (R115). -/
def clockEdge (s : State) : Outcome :=
  if !s.strapHeld then .refused .configChanged
  else if !lutAccepted s.cfg then .refused .sinLutRejected
  else if s.rspRead && s.rsp.isNone then .fault .readWithoutResponse
  else if s.rst then .next (present (resetEdge s))
  else if s.holdBroken then .fault .hostBrokeHold
  else
    match acceptance s with
    | .next t => .next (finishEdge t)
    | .fault f => .fault f
    | .refused r => .refused r

end Sys2Proof.Machine
end

