-- ==== Sys2Proof/Machine/Step.lean ====
section
/-!
DEFINITION. The step: one rising edge of clk (10_state.md R23), and where it finds its next command.
-/

namespace Sys2Proof.Machine

/-- One step of the machine. -/
def step (s : State) : Host.Outcome State Fault Refusal := clockEdge s

/-- The state with a command standing on the request port for the coming edge to accept. FXCORE fetches nothing
(R20): its commands come from the port (log 8). -/
def State.withFetchWord (s : State) (nbits w : Nat) : State := loadRequest (tableRequest nbits w) s

end Sys2Proof.Machine
end

