-- ==== Sys2Proof/Machine/Assembler.lean ====
section
/-!
DEFINITION. The host's program notation (30_encoding.md R46, R47): one line of assembler text is one command.
-/

namespace Sys2Proof.Machine

/-- A decimal numeral: (-1)^neg x digits / 10^scale. -/
structure Decimal where
  neg    : Bool
  digits : Nat
  scale  : Nat
deriving DecidableEq, Repr

/-- The operand forms of R46. -/
inductive AsmOperand where
  | hex (w : Nat)
  | int (n : Int)
  | fx (d : Decimal)
  | f32 (d : Decimal)
  | f64 (d : Decimal)
  | result (k : Nat)
deriving DecidableEq, Repr

/-- The value of a digit below `base`. -/
def digitOf (base : Nat) (c : Char) : Option Nat :=
  let n := c.toNat
  let d := if 48 ≤ n ∧ n ≤ 57 then n - 48 else if 65 ≤ n ∧ n ≤ 70 then n - 55 else if 97 ≤ n ∧ n ≤ 102 then n - 87 else base
  if d < base then some d else none

/-- The number a digit string writes after `acc`. -/
def readDigits (base : Nat) : Nat → List Char → Option Nat
  | acc, [] => some acc
  | acc, c :: rest =>
    match digitOf base c with
    | some d => readDigits base (acc * base + d) rest
    | none => none

/-- A nonempty digit string. -/
def readNat (base : Nat) (cs : List Char) : Option Nat := if cs = [] then none else readDigits base 0 cs

/-- An optional minus sign. -/
def readSign : List Char → Bool × List Char
  | '-' :: rest => (true, rest)
  | cs => (false, cs)

/-- A decimal numeral with or without a fraction. -/
def readDecimal (cs : List Char) : Option Decimal :=
  let (neg, cs) := readSign cs
  let whole := cs.takeWhile (· ≠ '.')
  match cs.drop whole.length with
  | [] => (readNat 10 whole).map (fun n => ⟨neg, n, 0⟩)
  | _ :: frac =>
    match readNat 10 whole, readNat 10 frac with
    | some _, some _ => (readDigits 10 0 (whole ++ frac)).map (fun n => ⟨neg, n, frac.length⟩)
    | _, _ => none

/-- The text before a closing parenthesis at the end. -/
def beforeParen (cs : List Char) : Option (List Char) :=
  if cs.getLast? = some ')' then some cs.dropLast else none

/-- One operand (R46). -/
def readOperand : List Char → Option AsmOperand
  | '0' :: 'x' :: rest => (readNat 16 (rest.filter (· ≠ '_'))).map .hex
  | '%' :: rest => (readNat 10 rest).map .result
  | 'f' :: 'x' :: '(' :: rest => ((beforeParen rest).bind readDecimal).map .fx
  | 'f' :: '3' :: '2' :: '(' :: rest => ((beforeParen rest).bind readDecimal).map .f32
  | 'f' :: '6' :: '4' :: '(' :: rest => ((beforeParen rest).bind readDecimal).map .f64
  | cs =>
    let (neg, digits) := readSign cs
    (readNat 10 digits).map (fun n => .int (signed neg n))

/-- The IEEE encoding of rne(d) (R46), bits_F of it: a zero is +0.0 (R11), also for d = -0.0 and for a negative d that
rounds to zero (DEDUCED, safe: log 21). -/
def encodeDecimal (f : FloatFormat) (d : Decimal) : DWord :=
  bitsF f (rneQuotient f (1200 + 4 * d.scale) d.neg d.digits (10 ^ d.scale) 0)

/-- fx(d) (R46): d x 65536, if that is an integer in [-2^31, 2^31). -/
def fixedDecimal (d : Decimal) : Option Word :=
  let raw := signed d.neg (d.digits * 65536 / 10 ^ d.scale)
  if d.digits * 65536 % 10 ^ d.scale = 0 ∧ minWord.toInt ≤ raw ∧ raw ≤ maxWord.toInt then some (toWord raw) else none

/-- The word an operand writes; `bits` is how many bits of operand word it may fill. Bits not written are zero. -/
def assembleOperand (bits : Nat) : AsmOperand → Option Operand
  | .hex w => if w < 2 ^ bits then some (.word (BitVec.ofNat 64 w)) else none
  | .int n => if minWord.toInt ≤ n ∧ n ≤ maxWord.toInt then some (.word (zext64 (toWord n))) else none
  | .fx d => (fixedDecimal d).map (fun w => .word (zext64 w))
  | .f32 d => some (.word (encodeDecimal .binary32 d))
  | .f64 d => if bits = 64 then some (.word (encodeDecimal .binary64 d)) else none
  | .result k => some (.result k)

/-- The mnemonics of R46. -/
def mnemonics : List (String × Cmd) :=
  [("add.w", 0x00#8), ("add.c", 0x01#8), ("add.s", 0x02#8), ("sub.w", 0x04#8), ("sub.c", 0x05#8), ("sub.s", 0x06#8),
    ("mul.w", 0x08#8), ("mul.c", 0x09#8), ("mul.s", 0x0A#8), ("div.w", 0x0C#8), ("div.c", 0x0D#8), ("div.s", 0x0E#8)]
  ++ [("sqrt", 0x10#8), ("sin", 0x14#8), ("cos", 0x18#8), ("tan", 0x1C#8), ("itox", 0x20#8), ("xtoi", 0x24#8),
    ("stox", 0x28#8), ("xtos", 0x2C#8), ("dtox", 0x30#8), ("xtod", 0x34#8), ("floor", 0x38#8), ("ceil", 0x3C#8)]

/-- The aliases of R47. -/
def aliases : List (String × Cmd) :=
  [("add", 0x00#8), ("sub", 0x04#8), ("mul", 0x08#8), ("div", 0x0C#8), ("checked_add", 0x01#8), ("checked_sub", 0x05#8),
    ("checked_mul", 0x09#8), ("checked_div", 0x0D#8), ("saturating_add", 0x02#8), ("saturating_sub", 0x06#8),
    ("saturating_mul", 0x0A#8), ("saturating_div", 0x0E#8)]
  ++ [("from_integer", 0x20#8), ("to_integer", 0x24#8), ("from_float32", 0x28#8), ("from_float64", 0x30#8),
    ("to_float32", 0x2C#8), ("to_float64", 0x34#8)]

/-- The CMD byte of a mnemonic or alias. -/
def commandByte (name : String) : Option Cmd := (mnemonics ++ aliases).lookup name

/-- One command from its byte and operands: binary commands take `a, b`, unary ones one operand (R46). Only DTOX
reads more than A[31:0]. -/
def assembleCommand (cmd : Cmd) (operands : List AsmOperand) : Option HostCommand :=
  let bits := if cmd = 0x30#8 then 64 else 32
  match decide (cmd.extractLsb' 2 6 ≤ 0x03#6), operands with
  | true, [a, b] =>
    match assembleOperand 32 a, assembleOperand 32 b with
    | some a, some b => some ⟨cmd, a, b⟩
    | _, _ => none
  | false, [a] => (assembleOperand bits a).map (fun a => ⟨cmd, a, .word 0#64⟩)
  | _, _ => none

/-- One line: a mnemonic, a space, and operands separated by commas (R46). -/
def assembleLine (line : String) : Option HostCommand :=
  let cs := line.toList
  let name := cs.takeWhile (· ≠ ' ')
  let fields := ((cs.drop name.length).filter (· ≠ ' ')).splitOn ','
  match commandByte (String.ofList name), fields.mapM readOperand with
  | some cmd, some operands => assembleCommand cmd operands
  | _, _ => none

/-- A host program (R132). -/
def assemble (lines : List String) : Option (List HostCommand) := lines.mapM assembleLine

/-- The agenda of a host that presents a program's commands one after another, each as soon as it may (R128), to an
FXCORE that is ready and answers at once. -/
def programAgenda (program : List HostCommand) : List Edge := program.map (fun c => { req := some c })

end Sys2Proof.Machine
end

