-- ==== Sys2Proof/Safety.lean ====
section
/-!
DEFINITION. The terms claims are stated in: what answering a command means, the invariant of a run, admissible edges,
the trace of a run, and the exact arithmetic the commands are compared with.
-/

namespace Sys2Proof.Machine

/-! ### Answering -/

/-- `exec` answers a next state in which the one response `r` has joined Q and NOTHING else has changed: no pin, no
other response, not the configuration, nothing the host holds (R25, R30, R113). -/
def AnswersWith (i : Instr) (s : State) (r : Response) : Prop :=
  exec i s = .next { s with q := s.q ++ [r] }

/-- The binary command encoded as `cmd`: its operands are A[31:0] and B[31:0], and nothing else is read (R40, R41). -/
def BinaryAt (cmd : Cmd) (f : Word → Word → Instr) : Prop :=
  ∀ (A : DWord) (B : Word), decode ⟨cmd, A, B⟩ = .ok (f (A.extractLsb' 0 32) B)

/-- The unary command encoded as `cmd`: its operand is A[31:0], and nothing else is read (R40, R41). -/
def UnaryAt (cmd : Cmd) (f : Word → Instr) : Prop :=
  ∀ (A : DWord) (B : Word), decode ⟨cmd, A, B⟩ = .ok (f (A.extractLsb' 0 32))

/-- The response whose result is the 32-bit word of `v`, with V = 0 and ILL = 0 (R42). -/
def plain (v : Int) : Response := { y := zext64 (toWord v), v := false, ill := false }

/-- The response of a C-mode command: the word of `v`, and V (R67). -/
def checked (v : Int) (ov : Bool) : Response := { y := zext64 (toWord v), v := ov, ill := false }

/-- A response R114 allows: with ILL = 1 both Y and V are 0. -/
def Response.Legal (r : Response) : Prop := r.ill = true → r.y = 0#64 ∧ r.v = false

/-! ### Invariant and admissible edges -/

/-- What every step keeps. -/
structure State.Inv (s : State) : Prop where
  /-- LATENCY and DEPTH are at least 1, and the table is in its canonical form (R5). -/
  config      : s.cfg.wellFormed = true
  /-- A valid response is the oldest of Q (R24 item 2, R25). -/
  oldest      : ∀ r, s.rsp = some r → s.q.head? = some r
  /-- Q never passes DEPTH (R25). -/
  depth       : s.q.length ≤ s.cfg.depth
  /-- req_ready is 1 only where Q has room, or makes room at the same edge (R25). -/
  room        : s.reqReady = true → s.q.length < s.cfg.depth ∨ (s.rsp.isSome = true ∧ s.rspReady = true)
  /-- (ILL, V) = (1, 1) is never produced, and an illegal response has Y = 0 (R114). -/
  legal       : ∀ r ∈ s.taken ++ s.q, r.Legal

/-- The coming edge neither leaves the spec nor is refused: the configuration is as elaborated and is this hardware's
(R126), and the host keeps its duties (R129). -/
structure State.Admissible (s : State) : Prop where
  strap  : s.strapHeld = true
  table  : lutAccepted s.cfg = true
  read   : s.rspRead = true → s.rsp.isSome = true
  holds  : s.rst = true ∨ s.holdBroken = false

/-- The clean state of R124: nothing in flight, no valid response, nothing waiting, rst = 0. -/
def State.Clean (s : State) : Prop :=
  s.q = [] ∧ s.rsp = none ∧ s.held = none ∧ s.rst = false

/-- What holds at the end of a run (R132): every command has been accepted (none is planned, none stands on the port,
none waits) and every response delivered. Edges without a command may still be planned. -/
def State.RunOver (s : State) : Prop :=
  (∀ e ∈ s.agenda, e.req = none) ∧ s.reqValid = false ∧ s.held = none ∧ s.q = []

/-- The run from `s` ends after `n` edges, in `t`: the first edge at which it is over (R132). -/
def RunEndsAt (n : Nat) (s t : State) : Prop :=
  Sys2Proof.core.run n s = .next t ∧ t.RunOver ∧
    ∀ (m : Nat) (u : State), m < n → Sys2Proof.core.run m s = .next u → ¬ u.RunOver

/-- "SIN_LUT meets rule R111 constraints 1 to 4" (R126, I1): the named property claims about tables may assume. -/
structure LutConforms (c : Config) : Prop where
  vectors    : lutAccepted c = true
  magnitudes : ∀ i, i < lutCount → 0 ≤ (lutRead c.sinLut i).toInt

/-! ### The trace of a run -/

/-- The requests accepted in the next `n` steps, in order (R24). -/
def acceptedIn : Nat → State → List Request
  | 0, _ => []
  | n + 1, s =>
    (if s.accepts then [s.request] else []) ++
      match step s with
      | .next t => acceptedIn n t
      | .fault _ => []
      | .refused _ => []

/-- No edge of the next `n` has rst = 1. -/
def noResetIn : Nat → State → Bool
  | 0, _ => true
  | n + 1, s =>
    !s.rst &&
      match step s with
      | .next t => noResetIn n t
      | .fault _ => true
      | .refused _ => true

/-! ### Exact arithmetic -/

/-- The exact value clamped to [MIN, MAX] (R74). -/
def clampInt (v : Int) : Int := max (-2 ^ 31) (min (2 ^ 31 - 1) v)

/-- The exact value lies outside [MIN, MAX]. -/
def outOfRange (v : Int) : Bool := decide (v < -2 ^ 31 ∨ 2 ^ 31 - 1 < v)

/-- p / 65536 rounded to nearest, ties away from zero (R62). -/
def roundHalfAway (p : Int) : Int :=
  if 0 ≤ p then (p + 32768) / 65536 else -((-p + 32768) / 65536)

/-- p / 65536 under the rounding policy of MUL and XTOI (R61): floor, or half away from zero. -/
def roundPolicy (noRounding : Bool) (p : Int) : Int :=
  if noRounding then p / 65536 else roundHalfAway p

/-- The product overflows (R75): it does not fit in 48 bits. -/
def productOverflows (p : Int) : Bool := decide (p < -2 ^ 47 ∨ 2 ^ 47 ≤ p)

/-- The magnitude of a quotient (R86), from the engine's quotient with 17 fraction bits. -/
def quotientMagnitude (noRounding : Bool) (q : Nat) : Nat := if noRounding then q / 2 else (q + 1) / 2

/-- The signed quotient (R87). -/
def signedQuotient (a b : Word) (m : Nat) : Int :=
  if decide (a.toInt < 0) = decide (b.toInt < 0) then m else -(m : Int)

/-- n x 65536 as the square-root engine sees it: where the integer root of n leaves more than 16 bits, the rescaling
of R97 takes a quarter of a step off. -/
def scaledRadicand (n : Nat) : Nat :=
  if 65535 < n - Nat.sqrt n * Nat.sqrt n then n * 65536 - 16384 else n * 65536

/-- The closed form of the square-root engine on a magnitude n: the integer root of the scaled radicand, and one more
when rounding and the remainder exceeds it (R99). -/
def exactRoot (noRounding : Bool) (n : Nat) : Nat :=
  let m := Nat.sqrt (scaledRadicand n)
  if noRounding = false ∧ m < scaledRadicand n - m * m then m + 1 else m

/-- The sine of the reduced angle t in [0, 411774), from a quarter table L (R103 to R105). -/
def sineOfReduced (L : Nat → Word) (t : Nat) : Word :=
  if t < 102943 then L t
  else if t = 102943 then one
  else if t < 205887 then L (205887 - t)
  else if t < 308830 then -(L (t - 205887))
  else if t = 308830 then -one
  else -(L (411774 - t))

/-- The magnitude STOX or DTOX converts a finite operand to (R50), before the range rule of R51, from the operand's
exponent field `ex` and fraction field `frac`: `p` is the format's fraction width, and `unit` the exponent field at
which the scaled operand's last place is 1. Below `unit` the value is rounded half away from zero, but for the one
operand just below one half, which the addition of 0.5 takes to 1; at `unit` an odd value goes to the even neighbour
away from zero; above it the value stands. -/
def convertedMagnitude (p unit : Nat) (noRounding : Bool) (ex frac : Nat) : Nat :=
  let m := if ex = 0 then frac else 2 ^ p + frac
  let e := max ex 1
  if e < unit then
    let k := unit - e
    if noRounding then m / 2 ^ k
    else if m = 2 ^ (p + 1) - 1 ∧ k = p + 2 then 1
    else (m + 2 ^ (k - 1)) / 2 ^ k
  else if e = unit then (if noRounding then m else m + m % 2)
  else m * 2 ^ (e - unit)

/-- The exponent field and the fraction field of a binary32 pattern. -/
def exponent32 (x : Word) : Nat := (x.extractLsb' 23 8).toNat
def fraction32 (x : Word) : Nat := (x.extractLsb' 0 23).toNat

/-- The exponent field and the fraction field of a binary64 pattern. -/
def exponent64 (x : DWord) : Nat := (x.extractLsb' 52 11).toNat
def fraction64 (x : DWord) : Nat := (x.extractLsb' 0 52).toNat

/-- The range rule of R51 for a finite value. -/
def rangeRule (oor : FloatOor) (v : Int) : Int :=
  match oor with
  | .wrap => v
  | .saturate => clampInt v

end Sys2Proof.Machine
end

