-- ==== Sys2Proof/Certificates/Slice0/Obligations.lean ====
section
/-!
DEFINITION. The statements. Each docstring says which rule of spec/ the statement formalises. `AnswersWith i s r` is
exec i s = .next of s with the one response r appended to Q: it is a completion, a result and a frame at once.
-/

open Sys2Proof Sys2Proof.Machine

/-! ### Encoding -/

/-- Words written out from R40 and R41: one of each family. -/
def Obligations.DecoderReadsTheTableWords : Prop :=
  ∀ (a : DWord) (b : Word),
    decode ⟨0b00000001#8, a, b⟩ = .ok (.addC (a.extractLsb' 0 32) b) ∧
    decode ⟨0b00001010#8, a, b⟩ = .ok (.mulS (a.extractLsb' 0 32) b) ∧
    decode ⟨0b00001100#8, a, b⟩ = .ok (.divW (a.extractLsb' 0 32) b) ∧
    decode ⟨0b00010000#8, a, b⟩ = .ok (.sqrt (a.extractLsb' 0 32)) ∧
    decode ⟨0b00011100#8, a, b⟩ = .ok (.tan (a.extractLsb' 0 32)) ∧
    decode ⟨0b00110000#8, a, b⟩ = .ok (.dtox a) ∧
    decode ⟨0b00111100#8, a, b⟩ = .ok (.ceil (a.extractLsb' 0 32))

/-- R40, R41: the legal CMD values are exactly these 24, each decodes to its command with the operand bits its FUNC
reads and no others, and every other value of the 256 is reserved. -/
def Obligations.ExactlyTwentyFourCommandsAreLegal : Prop :=
  (BinaryAt 0x00#8 .addW ∧ BinaryAt 0x01#8 .addC ∧ BinaryAt 0x02#8 .addS ∧
    BinaryAt 0x04#8 .subW ∧ BinaryAt 0x05#8 .subC ∧ BinaryAt 0x06#8 .subS ∧
    BinaryAt 0x08#8 .mulW ∧ BinaryAt 0x09#8 .mulC ∧ BinaryAt 0x0A#8 .mulS ∧
    BinaryAt 0x0C#8 .divW ∧ BinaryAt 0x0D#8 .divC ∧ BinaryAt 0x0E#8 .divS) ∧
  (UnaryAt 0x10#8 .sqrt ∧ UnaryAt 0x14#8 .sin ∧ UnaryAt 0x18#8 .cos ∧ UnaryAt 0x1C#8 .tan ∧
    UnaryAt 0x20#8 .itox ∧ UnaryAt 0x24#8 .xtoi ∧ UnaryAt 0x28#8 .stox ∧ UnaryAt 0x2C#8 .xtos ∧
    (∀ (A : DWord) (B : Word), decode ⟨0x30#8, A, B⟩ = .ok (.dtox A)) ∧
    UnaryAt 0x34#8 .xtod ∧ UnaryAt 0x38#8 .floor ∧ UnaryAt 0x3C#8 .ceil) ∧
  (∀ r : Request,
    ((∃ i, decode r = .ok i) ↔
      r.cmd.toNat ∈ [0x00, 0x01, 0x02, 0x04, 0x05, 0x06, 0x08, 0x09, 0x0A, 0x0C, 0x0D, 0x0E,
        0x10, 0x14, 0x18, 0x1C, 0x20, 0x24, 0x28, 0x2C, 0x30, 0x34, 0x38, 0x3C]) ∧
    ((∃ e, decode r = .error e) ↔ legalCmd r.cmd = false))

/-- R44: the three kinds of reserved encoding, each rejected under its own name. -/
def Obligations.ReservedEncodingsAreNamed : Prop :=
  ∀ r : Request,
    (decode r = .error .modeOfBinary ↔ r.cmd.toNat / 4 ≤ 0x03 ∧ r.cmd.toNat % 4 = 3) ∧
    (decode r = .error .modeOfUnary ↔ 0x04 ≤ r.cmd.toNat / 4 ∧ r.cmd.toNat / 4 ≤ 0x0F ∧ r.cmd.toNat % 4 ≠ 0) ∧
    (decode r = .error .func ↔ 0x40 ≤ r.cmd.toNat)

/-- Decode and encode agree, in both directions: an encoded command is read back with every operand bit, and a request
that decodes to i carries i's encoding on every bit R41 says its FUNC reads. -/
def Obligations.EncodingRoundTrips : Prop :=
  (∀ i : Instr, decode (encode i) = .ok i) ∧
  (∀ (r : Request) (i : Instr), decode r = .ok i →
    (encode i).cmd = r.cmd ∧
    (encode i).a = (if r.cmd = 0x30#8 then r.a else r.a &&& 0xFFFFFFFF#64) ∧
    (encode i).b = (if r.cmd.toNat < 0x10 then r.b else 0#32))

/-- R41: ignored bits have no effect: A[63:32] for every command but DTOX, and B for every unary command. -/
def Obligations.IgnoredBitsHaveNoEffect : Prop :=
  ∀ (c : Cmd) (a a' : DWord) (b b' : Word),
    (c = 0x30#8 → a = a') → a.extractLsb' 0 32 = a'.extractLsb' 0 32 → (c.toNat < 0x10 → b = b') →
    decode ⟨c, a, b⟩ = decode ⟨c, a', b'⟩

/-- R47: every alias emits the command of its mnemonic. -/
def Obligations.AliasesEmitTheirCommands : Prop :=
  ∀ p ∈ [("add", "add.w"), ("sub", "sub.w"), ("mul", "mul.w"), ("div", "div.w"),
      ("checked_add", "add.c"), ("checked_sub", "sub.c"), ("checked_mul", "mul.c"), ("checked_div", "div.c"),
      ("saturating_add", "add.s"), ("saturating_sub", "sub.s"), ("saturating_mul", "mul.s"), ("saturating_div", "div.s"),
      ("from_integer", "itox"), ("to_integer", "xtoi"), ("from_float32", "stox"), ("from_float64", "dtox"),
      ("to_float32", "xtos"), ("to_float64", "xtod")],
    (commandByte p.1).isSome = true ∧ commandByte p.1 = commandByte p.2

/-! ### The clock edge -/

/-- R24: at an admissible edge with rst = 0 that accepts a request decoding to i, the step is exec of i followed by
what the edge does around it: note a request left waiting, deliver, and bring the next edge to the pins. -/
def Obligations.StepRunsTheDecodedCommand : Prop :=
  ∀ (s : State) (i : Instr), s.Admissible → s.rst = false → s.reqValid = true → s.reqReady = true →
    decode s.request = .ok i →
    ∃ t, exec i s = .next t ∧ step s = .next (present (deliver (noteHeld t)))

/-- A word placed for the coming edge is run by it, from every state of this hardware. -/
def Obligations.FetchWordIsRunByTheNextStep : Prop :=
  ∀ (s : State) (nbits w : Nat) (i : Instr), lutAccepted s.cfg = true → decodeTableWord nbits w = some i →
    ∃ t, exec i (s.withFetchWord nbits w) = .next t ∧
      step (s.withFetchWord nbits w) = .next (present (deliver (noteHeld t)))

/-- R113: a reserved CMD that is accepted is answered, in its place in the order, by Y = 0, V = 0, ILL = 1, whatever A
and B are; nothing else changes, and the edge goes on as for any command. -/
def Obligations.ReservedCommandIsAnsweredIllegal : Prop :=
  ∀ (s : State) (e : ReservedCmd), s.Admissible → s.rst = false → s.reqValid = true → s.reqReady = true →
    decode s.request = .error e →
    step s = .next (present (deliver (noteHeld { s with q := s.q ++ [⟨0#64, false, true⟩] })))

/-- R112, R114, R21: every command answers exactly one response with ILL = 0, from every state and for every operand,
and V is 1 only in a C-mode command. -/
def Obligations.EveryCommandAnswersOnce : Prop :=
  ∀ (i : Instr) (s : State), ∃ r : Response, AnswersWith i s r ∧ r.ill = false ∧
    (r.v = true → ∃ a b : Word, i = .addC a b ∨ i = .subC a b ∨ i = .mulC a b ∨ i = .divC a b)

/-- R2, R30, R126, R130: a response is a function of the command, the four policy fields and SIN_LUT alone; LATENCY,
DEPTH and the wrapper fields reach none. -/
def Obligations.ResponseDependsOnCommandAndConfigOnly : Prop :=
  ∃ f : Policy → SinLut → Instr → Response, ∀ (i : Instr) (s : State),
    AnswersWith i s (f s.cfg.policy s.cfg.sinLut i)

/-- R61: ADD.*, SUB.*, ITOX, XTOS, XTOD, FLOOR, CEIL, SIN and COS do not read NO_ROUNDING. -/
def Obligations.RoundingFlagIsNotReadByOthers : Prop :=
  ∀ (i : Instr) (s : State) (nr : Bool),
    (∃ a b : Word, i = .addW a b ∨ i = .addC a b ∨ i = .addS a b ∨ i = .subW a b ∨ i = .subC a b ∨ i = .subS a b ∨
      i = .itox a ∨ i = .xtos a ∨ i = .xtod a ∨ i = .floor a ∨ i = .ceil a ∨ i = .sin a ∨ i = .cos a) →
    ∃ r, AnswersWith i s r ∧
      AnswersWith i { s with cfg := { s.cfg with policy := { s.cfg.policy with noRounding := nr } } } r

/-- R123: an edge with rst = 1 discards every command in flight without delivering it, accepts nothing, and leaves the
configuration; rsp_valid is 0 after it. -/
def Obligations.ResetEdgeEmptiesTheQueue : Prop :=
  ∀ s : State, s.Admissible → s.rst = true →
    ∃ t, step s = .next t ∧ t.q = [] ∧ t.rsp = none ∧ t.taken = s.taken ∧ t.cfg = s.cfg

/-- R26, R124: the state after reset is clean, with NO_ROUNDING false, and no response output holds a value. -/
def Obligations.ResetStateIsClean : Prop :=
  State.reset.Clean ∧ State.reset.cfg.policy.noRounding = false ∧ State.reset.taken = []

/-- R24 item 3: a valid response the host is not ready for has the same Y, V and ILL after the edge; that it is still
valid then is the model's choice (log 22). -/
def Obligations.UntakenResponseIsHeldStable : Prop :=
  ∀ (s t : State) (r : Response), s.rsp = some r → s.rspReady = false → s.rst = false → step s = .next t →
    t.rsp = some r ∧ t.taken = s.taken

/-- R129, I14: a host that changes or withdraws a waiting request has no move. -/
def Obligations.BrokenHoldHasNoMove : Prop :=
  ∀ (s : State) (r : Request), s.strapHeld = true → lutAccepted s.cfg = true →
    (s.rspRead = true → s.rsp.isSome = true) → s.rst = false →
    s.held = some r → (s.reqValid = false ∨ s.request ≠ r) → step s = .fault .hostBrokeHold

/-- R26, R122, I10: reading the response outputs while rsp_valid = 0 is a fault. -/
def Obligations.ReadWithoutResponseFaults : Prop :=
  ∀ s : State, s.strapHeld = true → lutAccepted s.cfg = true → s.rspRead = true → s.rsp = none →
    step s = .fault .readWithoutResponse

/-- R126, I12, I13: a changed configuration is refused, and so is a table that breaks a constraint of R111; and no
step changes the configuration. -/
def Obligations.ConfigurationIsConstant : Prop :=
  (∀ (s : State) (p : Policy), s.strap = some p → p ≠ s.cfg.policy → step s = .refused .configChanged) ∧
  (∀ s : State, s.strapHeld = true →
    (lutRead s.cfg.sinLut 78847 ≠ 0x0000EEE4#32 ∨ lutRead s.cfg.sinLut 73945 ≠ 0x0000E758#32 ∨
      (∀ u : State, u.cfg.policy = { s.cfg.policy with noRounding := false } →
        ¬ AnswersWith (.divS (lutRead s.cfg.sinLut 11322) (lutRead s.cfg.sinLut 91622)) u ⟨0x00002CAC#64, false, false⟩)) →
    step s = .refused .sinLutRejected) ∧
  (∀ s t : State, step s = .next t → t.cfg = s.cfg)

/-- R128: a host whose next request names a response it has not taken presents nothing new. How it waits is the
model's choice (log 14, log 2): the planned edge stays in the agenda, the coming edge is an idle one that goes on
presenting a request already waiting, if there is one, and k counts the responses taken across resets. -/
def Obligations.HostWaitsForTheResponseItNames : Prop :=
  ∀ (s : State) (e : Edge) (rest : List Edge) (c : HostCommand) (k : Nat),
    s.agenda = e :: rest → e.req = some c → (c.a = .result k ∨ c.b = .result k) → s.taken.length < k →
    (present s).agenda = s.agenda ∧ (present s).reqValid = s.held.isSome ∧
      (∀ r : Request, s.held = some r → (present s).request = r)

/-! ### Invariants and runs -/

/-- The invariant holds after reset. -/
def Obligations.InvariantHoldsAtReset : Prop := State.reset.Inv

/-- Every step keeps the invariant: the valid response is the oldest of Q, Q stays within DEPTH, req_ready is never
raised without room, every response is one R114 allows, and the configuration stays well formed. -/
def Obligations.EveryStepKeepsTheInvariant : Prop :=
  ∀ s t : State, s.Inv → step s = .next t → t.Inv

/-- R24 items 1, 2 and 5, R32: over any run without reset, what the host has taken followed by what is still in flight
is what it was, followed by one response for each accepted request, in acceptance order, each a function of its own
request and the configuration; and that function is what exec answers. -/
def Obligations.EveryRunAnswersInAcceptanceOrder : Prop :=
  ∃ f : Config → Request → Response,
    (∀ (s : State) (r : Request) (i : Instr), decode r = .ok i → AnswersWith i s (f s.cfg r)) ∧
    (∀ (c : Config) (r : Request) (e : ReservedCmd), decode r = .error e → f c r = ⟨0#64, false, true⟩) ∧
    (∀ (n : Nat) (s t : State), s.Inv → noResetIn n s = true → Sys2Proof.core.run n s = .next t →
      t.taken ++ t.q = s.taken ++ s.q ++ (acceptedIn n s).map (f s.cfg))

/-- R131, R132, with the model's own idle host (log 2): when no edge is planned and no request stands on the port, the
run ends, at its first edge over, within one edge more than Q is long, with every response delivered in order; and
it stands over after that many edges. -/
def Obligations.IdleRunDrainsTheQueue : Prop :=
  ∀ s : State, s.Inv → s.Admissible → s.rst = false → s.reqValid = false → s.agenda = [] →
    (∃ (n : Nat) (u : State), n ≤ s.q.length + 1 ∧ RunEndsAt n s u ∧ u.taken = s.taken ++ s.q) ∧
    ∃ t, Sys2Proof.core.run (s.q.length + 1) s = .next t ∧ State.RunOver t ∧ t.agenda = [] ∧ t.taken = s.taken ++ s.q

/-- R132: at the end of a run FXCORE is in the clean state of R124, and the edges planned without a command, reset
apart, do not matter for that. -/
def Obligations.RunEndsInTheCleanState : Prop :=
  ∀ s : State, s.Inv → s.RunOver → s.rst = false → s.Clean

/-! ### fixed_point_adder -/

/-- R68, R71: ADD.W and SUB.W answer the exact sum or difference modulo 2^32, with V = 0. -/
def Obligations.WrappingAddSubIsModular : Prop :=
  BinaryAt 0x00#8 .addW ∧ BinaryAt 0x04#8 .subW ∧
  ∀ (s : State) (a b : Word),
    AnswersWith (.addW a b) s (plain (a.toInt + b.toInt)) ∧ AnswersWith (.subW a b) s (plain (a.toInt - b.toInt))

/-- R69, R72 with R66: ADD.C and SUB.C set V exactly when the exact result lies outside [MIN, MAX]; the value is the
wrapped result, or MIN on overflow under OVF_VALUE = SENTINEL. -/
def Obligations.CheckedAddSubFlagsOverflow : Prop :=
  BinaryAt 0x01#8 .addC ∧ BinaryAt 0x05#8 .subC ∧
  ∀ (s : State) (a b : Word),
    (s.cfg.policy.ovfValue = .wrapped →
      AnswersWith (.addC a b) s (checked (a.toInt + b.toInt) (outOfRange (a.toInt + b.toInt))) ∧
      AnswersWith (.subC a b) s (checked (a.toInt - b.toInt) (outOfRange (a.toInt - b.toInt)))) ∧
    (s.cfg.policy.ovfValue = .sentinel →
      AnswersWith (.addC a b) s
        (checked (if outOfRange (a.toInt + b.toInt) then -2 ^ 31 else a.toInt + b.toInt) (outOfRange (a.toInt + b.toInt))) ∧
      AnswersWith (.subC a b) s
        (checked (if outOfRange (a.toInt - b.toInt) then -2 ^ 31 else a.toInt - b.toInt) (outOfRange (a.toInt - b.toInt))))

/-- R70, R73, R74 item 5: ADD.S and SUB.S clamp the exact result; under SAT_DETECT = SENTINEL the one differing operand
pair is 0 + MIN, which gives MAX. -/
def Obligations.SaturatingAddSubClamps : Prop :=
  BinaryAt 0x02#8 .addS ∧ BinaryAt 0x06#8 .subS ∧
  ∀ (s : State) (a b : Word),
    (s.cfg.policy.satDetect = .flag → AnswersWith (.addS a b) s (plain (clampInt (a.toInt + b.toInt)))) ∧
    (s.cfg.policy.satDetect = .sentinel →
      AnswersWith (.addS a b) s
        (plain (if a = 0#32 ∧ b = 0x80000000#32 then 2 ^ 31 - 1 else clampInt (a.toInt + b.toInt)))) ∧
    AnswersWith (.subS a b) s (plain (clampInt (a.toInt - b.toInt)))

/-! ### fixed_point_multiplier -/

/-- R76 with R75: MUL.W answers the exact product divided by 65536, rounded half away from zero (or floored under
NO_ROUNDING), modulo 2^32. -/
def Obligations.WrappingMultiplyRounds : Prop :=
  BinaryAt 0x08#8 .mulW ∧
  ∀ (s : State) (a b : Word),
    AnswersWith (.mulW a b) s (plain (roundPolicy s.cfg.policy.noRounding (a.toInt * b.toInt)))

/-- R77 with R75: MUL.C sets V exactly when the exact product does not fit in 48 bits. -/
def Obligations.CheckedMultiplyFlagsOverflow : Prop :=
  BinaryAt 0x09#8 .mulC ∧
  ∀ (s : State) (a b : Word),
    AnswersWith (.mulC a b) s
      (checked
        (if productOverflows (a.toInt * b.toInt) ∧ s.cfg.policy.ovfValue = .sentinel then -2 ^ 31
          else roundPolicy s.cfg.policy.noRounding (a.toInt * b.toInt))
        (productOverflows (a.toInt * b.toInt)))

/-- R78 with R75 and R79: MUL.S clamps an overflowing product toward its sign; in the window of the rounding carry it
answers MIN under SAT_DETECT = FLAG and MAX under SENTINEL. -/
def Obligations.SaturatingMultiplyClamps : Prop :=
  BinaryAt 0x0A#8 .mulS ∧
  ∀ (s : State) (a b : Word),
    AnswersWith (.mulS a b) s
      (plain
        (if a.toInt * b.toInt < -2 ^ 47 then -2 ^ 31
          else if 2 ^ 47 ≤ a.toInt * b.toInt then 2 ^ 31 - 1
          else if s.cfg.policy.satDetect = .sentinel ∧ s.cfg.policy.noRounding = false ∧
              2 ^ 47 - 2 ^ 15 ≤ a.toInt * b.toInt then 2 ^ 31 - 1
          else roundPolicy s.cfg.policy.noRounding (a.toInt * b.toInt)))

/-- R79: with rounding, a positive product in [2^47 - 2^15, 2^47 - 1] gives MIN with V = 0 in MUL.W and MUL.C, and in
MUL.S MIN under FLAG and MAX under SENTINEL; the product just below the window gives MAX; -2^47 gives MIN with V = 0;
every product below it is flagged. -/
def Obligations.RoundingCarryWindow : Prop :=
  ∀ (s : State) (a b : Word), s.cfg.policy.noRounding = false →
    (2 ^ 47 - 2 ^ 15 ≤ a.toInt * b.toInt → a.toInt * b.toInt ≤ 2 ^ 47 - 1 →
      AnswersWith (.mulW a b) s ⟨0x80000000#64, false, false⟩ ∧
      AnswersWith (.mulC a b) s ⟨0x80000000#64, false, false⟩ ∧
      (s.cfg.policy.satDetect = .flag → AnswersWith (.mulS a b) s ⟨0x80000000#64, false, false⟩) ∧
      (s.cfg.policy.satDetect = .sentinel → AnswersWith (.mulS a b) s ⟨0x7FFFFFFF#64, false, false⟩)) ∧
    (a.toInt * b.toInt = 2 ^ 47 - 2 ^ 15 - 1 →
      AnswersWith (.mulW a b) s ⟨0x7FFFFFFF#64, false, false⟩ ∧ AnswersWith (.mulC a b) s ⟨0x7FFFFFFF#64, false, false⟩ ∧
      AnswersWith (.mulS a b) s ⟨0x7FFFFFFF#64, false, false⟩) ∧
    (a.toInt * b.toInt = -2 ^ 47 →
      AnswersWith (.mulW a b) s ⟨0x80000000#64, false, false⟩ ∧ AnswersWith (.mulC a b) s ⟨0x80000000#64, false, false⟩ ∧
      AnswersWith (.mulS a b) s ⟨0x80000000#64, false, false⟩) ∧
    (a.toInt * b.toInt < -2 ^ 47 → ∃ y, AnswersWith (.mulC a b) s ⟨y, true, false⟩)

/-- R80 items 1 to 4: multiplication commutes in every mode; by ONE it is the identity, by -ONE the negation, by 0
zero, all with V = 0; and MIN by -ONE overflows. -/
def Obligations.MultiplierLaws : Prop :=
  ∀ (s : State) (a b : Word),
    exec (.mulW a b) s = exec (.mulW b a) s ∧ exec (.mulC a b) s = exec (.mulC b a) s ∧
    exec (.mulS a b) s = exec (.mulS b a) s ∧
    AnswersWith (.mulW a 0x00010000#32) s (plain a.toInt) ∧ AnswersWith (.mulC a 0x00010000#32) s (plain a.toInt) ∧
    AnswersWith (.mulS a 0x00010000#32) s (plain a.toInt) ∧
    (a ≠ 0x80000000#32 →
      AnswersWith (.mulW a 0xFFFF0000#32) s (plain (-a.toInt)) ∧ AnswersWith (.mulC a 0xFFFF0000#32) s (plain (-a.toInt)) ∧
      AnswersWith (.mulS a 0xFFFF0000#32) s (plain (-a.toInt))) ∧
    AnswersWith (.mulC 0x80000000#32 0xFFFF0000#32) s ⟨0x80000000#64, true, false⟩ ∧
    AnswersWith (.mulW a 0#32) s (plain 0) ∧ AnswersWith (.mulC a 0#32) s (plain 0) ∧ AnswersWith (.mulS a 0#32) s (plain 0)

/-! ### restoring_divider -/

/-- R81, R91: a zero divisor gives MIN with V = 0 in DIV.W and DIV.C; DIV.S gives MIN under FLAG, and under SENTINEL
MAX for a dividend that is not negative and MIN otherwise. -/
def Obligations.DivisionByZeroGivesTheSentinel : Prop :=
  ∀ (s : State) (a : Word),
    AnswersWith (.divW a 0#32) s ⟨0x80000000#64, false, false⟩ ∧
    AnswersWith (.divC a 0#32) s ⟨0x80000000#64, false, false⟩ ∧
    (s.cfg.policy.satDetect = .flag → AnswersWith (.divS a 0#32) s ⟨0x80000000#64, false, false⟩) ∧
    (s.cfg.policy.satDetect = .sentinel →
      AnswersWith (.divS a 0#32) s (plain (if 0 ≤ a.toInt then 2 ^ 31 - 1 else -2 ^ 31)))

/-- R92: the engine's quotient is floor(|a| x 2^17 / |b|) or one more, and never more where the seed is skipped. -/
def Obligations.DividerQuotientIsFloorOrOneMore : Prop :=
  ∀ a b : Word, b ≠ 0#32 →
    ((divEngine a b).q = a.toInt.natAbs * 2 ^ 17 / b.toInt.natAbs ∨
      (divEngine a b).q = a.toInt.natAbs * 2 ^ 17 / b.toInt.natAbs + 1) ∧
    (b.toInt.natAbs < 2 ^ 20 → (divEngine a b).q = a.toInt.natAbs * 2 ^ 17 / b.toInt.natAbs)

/-- R89 with R86 and R87: DIV.W rounds the engine's quotient half up on the magnitude, applies the sign, and wraps. -/
def Obligations.WrappingDivideRoundsTheMagnitude : Prop :=
  ∀ (s : State) (a b : Word), b ≠ 0#32 →
    AnswersWith (.divW a b) s
      (plain (signedQuotient a b (quotientMagnitude s.cfg.policy.noRounding (divEngine a b).q)))

/-- R90 with R85 to R87: DIV.C flags exactly a magnitude of 2^31 or more. -/
def Obligations.CheckedDivideFlagsOverflow : Prop :=
  ∀ (s : State) (a b : Word), b ≠ 0#32 →
    AnswersWith (.divC a b) s
      (checked
        (if 2 ^ 31 ≤ quotientMagnitude s.cfg.policy.noRounding (divEngine a b).q ∧ s.cfg.policy.ovfValue = .sentinel
          then -2 ^ 31
          else signedQuotient a b (quotientMagnitude s.cfg.policy.noRounding (divEngine a b).q))
        (decide (2 ^ 31 ≤ quotientMagnitude s.cfg.policy.noRounding (divEngine a b).q)))

/-- R91: DIV.S clamps a magnitude of 2^31 or more by the agreement of the operand signs, under either SAT_DETECT. -/
def Obligations.SaturatingDivideClamps : Prop :=
  ∀ (s : State) (a b : Word), b ≠ 0#32 →
    AnswersWith (.divS a b) s
      (plain
        (if 2 ^ 31 ≤ quotientMagnitude s.cfg.policy.noRounding (divEngine a b).q then
            (if decide (a.toInt < 0) = decide (b.toInt < 0) then 2 ^ 31 - 1 else -2 ^ 31)
          else signedQuotient a b (quotientMagnitude s.cfg.policy.noRounding (divEngine a b).q)))

/-! ### digit_extract_sqrt_engine -/

/-- R94 to R100: the two-pass digit engine has a closed form, the integer root of the scaled magnitude with the
operand's sign restored. -/
def Obligations.SquareRootHasAClosedForm : Prop :=
  ∀ (s : State) (a : Word),
    AnswersWith (.sqrt a) s
      (plain (if a.toInt < 0 then -(exactRoot s.cfg.policy.noRounding a.toInt.natAbs : Int)
        else exactRoot s.cfg.policy.noRounding a.toInt.natAbs))

/-- R100: the magnitude of a root is at most 0x00B504F3, and the root of a negative operand is the negated root of its
magnitude. -/
def Obligations.SquareRootIsBoundedAndOdd : Prop :=
  ∀ (s : State) (a : Word), ∃ m : Nat, m ≤ 0x00B504F3 ∧
    AnswersWith (.sqrt a) s (plain (if a.toInt < 0 then -(m : Int) else m)) ∧
    (a ≠ 0x80000000#32 → a ≠ 0#32 → AnswersWith (.sqrt (-a)) s (plain (if a.toInt < 0 then (m : Int) else -(m : Int))))

/-! ### quadrant_reducer_trig -/

/-- R107 with R103 to R106: SIN is the table read at the angle reduced modulo TWO_PI, reflected and signed by quadrant,
with the clamp to ONE at the two quarter points. -/
def Obligations.SineReadsTheReducedAngle : Prop :=
  ∀ (s : State) (x : Word),
    AnswersWith (.sin x) s
      ⟨(sineOfReduced (lutRead s.cfg.sinLut) (x.toInt % 411774).toNat).setWidth 64, false, false⟩

/-- R108: COS is SIN of the wrapping sum x + HALF_PI. -/
def Obligations.CosineIsShiftedSine : Prop :=
  UnaryAt 0x18#8 .cos ∧
  ∀ (s : State) (x : Word), ∃ r : Response,
    AnswersWith (.sin (x + 0x0001921F#32)) s r ∧ AnswersWith (.cos x) s r

/-- R109: TAN is DIV.S of the results of SIN and COS, bit for bit. -/
def Obligations.TangentIsSaturatingDivide : Prop :=
  UnaryAt 0x1C#8 .tan ∧
  ∀ (s : State) (x : Word), ∃ (si co : Word) (r : Response),
    AnswersWith (.sin x) s ⟨si.setWidth 64, false, false⟩ ∧ AnswersWith (.cos x) s ⟨co.setWidth 64, false, false⟩ ∧
    AnswersWith (.divS si co) s r ∧ AnswersWith (.tan x) s r

/-- R111: in every state whose SIN_LUT is the one that differs from the candidate table nowhere, as at reset (the
model's choice, log 4), the table meets constraints 1 to 4 under every policy, and each entry is the real sine rounded
to nearest, the candidate formula of R111. -/
def Obligations.ResetTableIsTheRoundedSine : Prop :=
  State.reset.cfg.sinLut = [] ∧
  ∀ s : State, s.cfg.sinLut = [] →
    LutConforms s.cfg ∧
    ∀ i : Nat, i < 102944 →
      (lutRead s.cfg.sinLut i).toInt = ⌊Real.sin ((i : ℝ) / 65536) * 65536 + 1 / 2⌋

/-- R110: for a table with entries in [0, ONE], SIN and COS lie in [-ONE, ONE]; and SIN has the period TWO_PI wherever
the sum stays within MAX, for every table. -/
def Obligations.SineIsBoundedAndPeriodic : Prop :=
  ∀ (s : State) (x : Word),
    ((∀ i, i < 102944 → 0 ≤ (lutRead s.cfg.sinLut i).toInt ∧ (lutRead s.cfg.sinLut i).toInt ≤ 65536) →
      ∃ v w : Int, -65536 ≤ v ∧ v ≤ 65536 ∧ -65536 ≤ w ∧ w ≤ 65536 ∧
        AnswersWith (.sin x) s (plain v) ∧ AnswersWith (.cos x) s (plain w)) ∧
    (x.toInt + 411774 ≤ 2 ^ 31 - 1 → exec (.sin (x + 0x0006487E#32)) s = exec (.sin x) s)

/-- R110: with SIN_LUT[0] = 0 and SIN_LUT[102943] = ONE, as in the candidate table, SIN is odd on every x but MIN. -/
def Obligations.SineIsOdd : Prop :=
  ∀ (s : State) (x : Word), lutRead s.cfg.sinLut 0 = 0#32 → lutRead s.cfg.sinLut 102943 = 0x00010000#32 →
    x ≠ 0x80000000#32 →
    ∃ m : Word, AnswersWith (.sin x) s ⟨m.setWidth 64, false, false⟩ ∧
      AnswersWith (.sin (-x)) s ⟨(-m).setWidth 64, false, false⟩

/-! ### fixed_point_converter -/

/-- R52: ITOX answers n x 65536 modulo 2^32, which is n shifted left by 16, and exact for n in [-32768, 32767]. -/
def Obligations.IntegerToFixedShifts : Prop :=
  UnaryAt 0x20#8 .itox ∧
  ∀ (s : State) (n : Word),
    AnswersWith (.itox n) s (plain (n.toInt * 65536)) ∧
    (toWord (n.toInt * 65536) = n <<< 16) ∧
    (-32768 ≤ n.toInt → n.toInt ≤ 32767 → (toWord (n.toInt * 65536)).toInt = n.toInt * 65536)

/-- R53: XTOI floors under NO_ROUNDING and rounds half away from zero otherwise, without a 32-bit wrap; the result lies
in [-32768, 32768]. -/
def Obligations.FixedToIntegerRounds : Prop :=
  UnaryAt 0x24#8 .xtoi ∧
  ∀ (s : State) (a : Word),
    AnswersWith (.xtoi a) s (plain (roundPolicy s.cfg.policy.noRounding a.toInt)) ∧
    -32768 ≤ roundPolicy s.cfg.policy.noRounding a.toInt ∧ roundPolicy s.cfg.policy.noRounding a.toInt ≤ 32768

/-- R54 with R50 and R51, for every binary32 operand whose scaled value is finite: a closed form in its fields. -/
def Obligations.Binary32ToFixedClosedForm : Prop :=
  ∀ (s : State) (x : Word), exponent32 x ≤ 238 →
    AnswersWith (.stox x) s
      (plain (rangeRule s.cfg.policy.floatOor
        (if x.msb then -(convertedMagnitude 23 134 s.cfg.policy.noRounding (exponent32 x) (fraction32 x) : Int)
          else convertedMagnitude 23 134 s.cfg.policy.noRounding (exponent32 x) (fraction32 x))))

/-- R55 with R50 and R51, for every binary64 operand whose scaled value is finite: a closed form in its fields. -/
def Obligations.Binary64ToFixedClosedForm : Prop :=
  ∀ (s : State) (x : DWord), exponent64 x ≤ 2030 →
    AnswersWith (.dtox x) s
      (plain (rangeRule s.cfg.policy.floatOor
        (if x.msb then -(convertedMagnitude 52 1059 s.cfg.policy.noRounding (exponent64 x) (fraction64 x) : Int)
          else convertedMagnitude 52 1059 s.cfg.policy.noRounding (exponent64 x) (fraction64 x))))

/-- R51, for every operand whose scaled value is not finite: under SATURATE MAX, MIN, or 0 for NaN; under WRAP some
32-bit word with V = 0 and ILL = 0, of which nothing is said. -/
def Obligations.NonFiniteFloatsConvert : Prop :=
  ∀ (s : State),
    (∀ x : Word, 239 ≤ exponent32 x →
      (∃ w : Word, AnswersWith (.stox x) s ⟨w.setWidth 64, false, false⟩) ∧
      (s.cfg.policy.floatOor = .saturate →
        AnswersWith (.stox x) s
          (plain (if exponent32 x = 255 ∧ fraction32 x ≠ 0 then 0 else if x.msb then -2 ^ 31 else 2 ^ 31 - 1)))) ∧
    (∀ x : DWord, 2031 ≤ exponent64 x →
      (∃ w : Word, AnswersWith (.dtox x) s ⟨w.setWidth 64, false, false⟩) ∧
      (s.cfg.policy.floatOor = .saturate →
        AnswersWith (.dtox x) s
          (plain (if exponent64 x = 2047 ∧ fraction64 x ≠ 0 then 0 else if x.msb then -2 ^ 31 else 2 ^ 31 - 1))))

/-- R56: XTOS answers the binary32 pattern, in Y[31:0], of the multiple of the last place nearest to a, ties to even,
over 65536: exact up to 24 bits; zero is +0.0. -/
def Obligations.FixedToBinary32RoundsToEven : Prop :=
  ∀ (s : State) (a : Word), ∃ (y : DWord) (m k : Nat),
    AnswersWith (.xtos a) s ⟨y, false, false⟩ ∧ y.toNat < 2 ^ 32 ∧
    (a = 0#32 → y = 0#64) ∧
    (∃ (n : Nat) (e : Int), valF .binary32 y = .finite (decide (a.toInt < 0)) n e ∧
      (n : Rat) * 2 ^ e = (m : Rat) * 2 ^ k / 65536) ∧
    m ≤ 2 ^ 24 ∧ (a.toInt.natAbs < 2 ^ 24 → k = 0 ∧ m = a.toInt.natAbs) ∧
    (2 ^ 24 ≤ a.toInt.natAbs → 2 ^ 23 ≤ m ∧ 2 ^ 23 * 2 ^ k ≤ a.toInt.natAbs ∧ a.toInt.natAbs < 2 ^ 24 * 2 ^ k) ∧
    2 * ((m * 2 ^ k : Nat) - (a.toInt.natAbs : Int)).natAbs ≤ 2 ^ k ∧
    (0 < k → 2 * ((m * 2 ^ k : Nat) - (a.toInt.natAbs : Int)).natAbs = 2 ^ k → m % 2 = 0)

/-- R57: XTOD answers a binary64 pattern whose value is exactly a / 65536; zero is +0.0. -/
def Obligations.FixedToBinary64IsExact : Prop :=
  UnaryAt 0x34#8 .xtod ∧
  ∀ (s : State) (a : Word), ∃ (y : DWord) (neg : Bool) (n : Nat) (e : Int),
    AnswersWith (.xtod a) s ⟨y, false, false⟩ ∧ valF .binary64 y = .finite neg n e ∧
    (if neg then -(n : Rat) else n) * 2 ^ e = (a.toInt : Rat) / 65536 ∧ (a = 0#32 → y = 0#64)

/-- R58: DTOX of XTOD is the identity on every raw value, in both rounding modes and under both FLOAT_OOR. -/
def Obligations.Binary64RoundTrip : Prop :=
  ∀ (s : State) (a : Word), ∃ y : DWord,
    AnswersWith (.xtod a) s ⟨y, false, false⟩ ∧ AnswersWith (.dtox y) s ⟨a.setWidth 64, false, false⟩

/-- R58: STOX of XTOS is the identity for |a| < 2^23, and under NO_ROUNDING for |a| < 2^24. -/
def Obligations.Binary32RoundTrip : Prop :=
  ∀ (s : State) (a : Word),
    (a.toInt.natAbs < 2 ^ 23 ∨ (s.cfg.policy.noRounding = true ∧ a.toInt.natAbs < 2 ^ 24)) →
    ∃ y : Word, AnswersWith (.xtos a) s ⟨y.setWidth 64, false, false⟩ ∧
      AnswersWith (.stox y) s ⟨a.setWidth 64, false, false⟩

/-- R58: XTOI of ITOX is the identity on [-32768, 32767], in both rounding modes. -/
def Obligations.IntegerRoundTrip : Prop :=
  ∀ (s : State) (n : Word), -32768 ≤ n.toInt → n.toInt ≤ 32767 →
    ∃ x : Word, AnswersWith (.itox n) s ⟨x.setWidth 64, false, false⟩ ∧
      AnswersWith (.xtoi x) s ⟨n.setWidth 64, false, false⟩

/-! ### Rounding unit -/

/-- R63, R64: FLOOR answers the greatest multiple of 65536 not above a; CEIL the least not below a, modulo 2^32. -/
def Obligations.FloorAndCeilRoundToIntegers : Prop :=
  UnaryAt 0x38#8 .floor ∧ UnaryAt 0x3C#8 .ceil ∧
  ∀ (s : State) (a : Word),
    AnswersWith (.floor a) s (plain (a.toInt / 65536 * 65536)) ∧
    AnswersWith (.ceil a) s (plain (-(-a.toInt / 65536) * 65536))

/-- R65: FLOOR and CEIL are idempotent, and CEIL is FLOOR or the wrapped FLOOR + ONE. -/
def Obligations.FloorAndCeilLaws : Prop :=
  ∀ (s : State) (a : Word), ∃ f c : Word,
    AnswersWith (.floor a) s ⟨f.setWidth 64, false, false⟩ ∧ AnswersWith (.ceil a) s ⟨c.setWidth 64, false, false⟩ ∧
    f.toInt ≤ a.toInt ∧ a.toInt - f.toInt = (a.toNat % 65536 : Nat) ∧
    (a.toNat % 65536 = 0 → c = f) ∧
    (a.toNat % 65536 ≠ 0 → c = f + 0x00010000#32 ∧ (a.toInt ≤ 0x7FFF0000 → a.toInt ≤ c.toInt)) ∧
    AnswersWith (.floor f) s ⟨f.setWidth 64, false, false⟩ ∧ AnswersWith (.ceil c) s ⟨c.setWidth 64, false, false⟩
end

