-- ==== Sys2Proof/Laws/State.lean ====
section
/-!
SUPPORT. One lemma for each field of State and each operation that updates State.
-/

namespace Sys2Proof.Machine

@[simp] theorem noteHeld_cfg (s : State) : (noteHeld s).cfg = s.cfg := rfl
@[simp] theorem noteHeld_rst (s : State) : (noteHeld s).rst = s.rst := rfl
@[simp] theorem noteHeld_reqValid (s : State) : (noteHeld s).reqValid = s.reqValid := rfl
@[simp] theorem noteHeld_reqReady (s : State) : (noteHeld s).reqReady = s.reqReady := rfl
@[simp] theorem noteHeld_reqCmd (s : State) : (noteHeld s).reqCmd = s.reqCmd := rfl
@[simp] theorem noteHeld_reqA (s : State) : (noteHeld s).reqA = s.reqA := rfl
@[simp] theorem noteHeld_reqB (s : State) : (noteHeld s).reqB = s.reqB := rfl
@[simp] theorem noteHeld_rspReady (s : State) : (noteHeld s).rspReady = s.rspReady := rfl
@[simp] theorem noteHeld_rsp (s : State) : (noteHeld s).rsp = s.rsp := rfl
@[simp] theorem noteHeld_q (s : State) : (noteHeld s).q = s.q := rfl
@[simp] theorem noteHeld_rspRead (s : State) : (noteHeld s).rspRead = s.rspRead := rfl
@[simp] theorem noteHeld_strap (s : State) : (noteHeld s).strap = s.strap := rfl
@[simp] theorem noteHeld_held (s : State) : (noteHeld s).held = if s.reqValid && !s.reqReady then some s.request else none := rfl
@[simp] theorem noteHeld_taken (s : State) : (noteHeld s).taken = s.taken := rfl
@[simp] theorem noteHeld_agenda (s : State) : (noteHeld s).agenda = s.agenda := rfl

@[simp] theorem resetEdge_cfg (s : State) : (resetEdge s).cfg = s.cfg := rfl
@[simp] theorem resetEdge_rst (s : State) : (resetEdge s).rst = s.rst := rfl
@[simp] theorem resetEdge_reqValid (s : State) : (resetEdge s).reqValid = s.reqValid := rfl
@[simp] theorem resetEdge_reqReady (s : State) : (resetEdge s).reqReady = s.reqReady := rfl
@[simp] theorem resetEdge_reqCmd (s : State) : (resetEdge s).reqCmd = s.reqCmd := rfl
@[simp] theorem resetEdge_reqA (s : State) : (resetEdge s).reqA = s.reqA := rfl
@[simp] theorem resetEdge_reqB (s : State) : (resetEdge s).reqB = s.reqB := rfl
@[simp] theorem resetEdge_rspReady (s : State) : (resetEdge s).rspReady = s.rspReady := rfl
@[simp] theorem resetEdge_rsp (s : State) : (resetEdge s).rsp = none := rfl
@[simp] theorem resetEdge_q (s : State) : (resetEdge s).q = [] := rfl
@[simp] theorem resetEdge_rspRead (s : State) : (resetEdge s).rspRead = s.rspRead := rfl
@[simp] theorem resetEdge_strap (s : State) : (resetEdge s).strap = s.strap := rfl
@[simp] theorem resetEdge_held (s : State) : (resetEdge s).held = none := rfl
@[simp] theorem resetEdge_taken (s : State) : (resetEdge s).taken = s.taken := rfl
@[simp] theorem resetEdge_agenda (s : State) : (resetEdge s).agenda = s.agenda := rfl

@[simp] theorem loadRequest_cfg (r : Request) (s : State) : (loadRequest r s).cfg = s.cfg := rfl
@[simp] theorem loadRequest_rst (r : Request) (s : State) : (loadRequest r s).rst = false := rfl
@[simp] theorem loadRequest_reqValid (r : Request) (s : State) : (loadRequest r s).reqValid = true := rfl
@[simp] theorem loadRequest_reqReady (r : Request) (s : State) : (loadRequest r s).reqReady = true := rfl
@[simp] theorem loadRequest_reqCmd (r : Request) (s : State) : (loadRequest r s).reqCmd = r.cmd := rfl
@[simp] theorem loadRequest_reqA (r : Request) (s : State) : (loadRequest r s).reqA = r.a := rfl
@[simp] theorem loadRequest_reqB (r : Request) (s : State) : (loadRequest r s).reqB = r.b := rfl
@[simp] theorem loadRequest_rspReady (r : Request) (s : State) : (loadRequest r s).rspReady = s.rspReady := rfl
@[simp] theorem loadRequest_rsp (r : Request) (s : State) : (loadRequest r s).rsp = s.rsp := rfl
@[simp] theorem loadRequest_q (r : Request) (s : State) : (loadRequest r s).q = s.q := rfl
@[simp] theorem loadRequest_rspRead (r : Request) (s : State) : (loadRequest r s).rspRead = false := rfl
@[simp] theorem loadRequest_strap (r : Request) (s : State) : (loadRequest r s).strap = none := rfl
@[simp] theorem loadRequest_held (r : Request) (s : State) : (loadRequest r s).held = none := rfl
@[simp] theorem loadRequest_taken (r : Request) (s : State) : (loadRequest r s).taken = s.taken := rfl
@[simp] theorem loadRequest_agenda (r : Request) (s : State) : (loadRequest r s).agenda = s.agenda := rfl

@[simp] theorem drive_cfg (s : State) (e : Edge) (req : Option Request) : (drive s e req).cfg = s.cfg := rfl
@[simp] theorem drive_rst (s : State) (e : Edge) (req : Option Request) : (drive s e req).rst = e.rst := rfl
@[simp] theorem drive_reqValid (s : State) (e : Edge) (req : Option Request) : (drive s e req).reqValid = req.isSome := rfl
@[simp] theorem drive_reqReady (s : State) (e : Edge) (req : Option Request) : (drive s e req).reqReady = readyAt s e.ready (responseAt s e.answer) e.rspReady := rfl
@[simp] theorem drive_reqCmd (s : State) (e : Edge) (req : Option Request) : (drive s e req).reqCmd = (req.getD s.request).cmd := rfl
@[simp] theorem drive_reqA (s : State) (e : Edge) (req : Option Request) : (drive s e req).reqA = (req.getD s.request).a := rfl
@[simp] theorem drive_reqB (s : State) (e : Edge) (req : Option Request) : (drive s e req).reqB = (req.getD s.request).b := rfl
@[simp] theorem drive_rspReady (s : State) (e : Edge) (req : Option Request) : (drive s e req).rspReady = e.rspReady := rfl
@[simp] theorem drive_rsp (s : State) (e : Edge) (req : Option Request) : (drive s e req).rsp = responseAt s e.answer := rfl
@[simp] theorem drive_q (s : State) (e : Edge) (req : Option Request) : (drive s e req).q = s.q := rfl
@[simp] theorem drive_rspRead (s : State) (e : Edge) (req : Option Request) : (drive s e req).rspRead = e.rspRead := rfl
@[simp] theorem drive_strap (s : State) (e : Edge) (req : Option Request) : (drive s e req).strap = e.strap := rfl
@[simp] theorem drive_held (s : State) (e : Edge) (req : Option Request) : (drive s e req).held = s.held := rfl
@[simp] theorem drive_taken (s : State) (e : Edge) (req : Option Request) : (drive s e req).taken = s.taken := rfl
@[simp] theorem drive_agenda (s : State) (e : Edge) (req : Option Request) : (drive s e req).agenda = s.agenda := rfl

@[simp] theorem deliver_cfg (s : State) : (deliver s).cfg = s.cfg := by
  unfold deliver; split <;> [rfl; (split <;> rfl)]

@[simp] theorem deliver_rst (s : State) : (deliver s).rst = s.rst := by
  unfold deliver; split <;> [rfl; (split <;> rfl)]

@[simp] theorem deliver_reqValid (s : State) : (deliver s).reqValid = s.reqValid := by
  unfold deliver; split <;> [rfl; (split <;> rfl)]

@[simp] theorem deliver_reqReady (s : State) : (deliver s).reqReady = s.reqReady := by
  unfold deliver; split <;> [rfl; (split <;> rfl)]

@[simp] theorem deliver_reqCmd (s : State) : (deliver s).reqCmd = s.reqCmd := by
  unfold deliver; split <;> [rfl; (split <;> rfl)]

@[simp] theorem deliver_reqA (s : State) : (deliver s).reqA = s.reqA := by
  unfold deliver; split <;> [rfl; (split <;> rfl)]

@[simp] theorem deliver_reqB (s : State) : (deliver s).reqB = s.reqB := by
  unfold deliver; split <;> [rfl; (split <;> rfl)]

@[simp] theorem deliver_rspReady (s : State) : (deliver s).rspReady = s.rspReady := by
  unfold deliver; split <;> [rfl; (split <;> rfl)]

@[simp] theorem deliver_rspRead (s : State) : (deliver s).rspRead = s.rspRead := by
  unfold deliver; split <;> [rfl; (split <;> rfl)]

@[simp] theorem deliver_strap (s : State) : (deliver s).strap = s.strap := by
  unfold deliver; split <;> [rfl; (split <;> rfl)]

@[simp] theorem deliver_held (s : State) : (deliver s).held = s.held := by
  unfold deliver; split <;> [rfl; (split <;> rfl)]

@[simp] theorem deliver_agenda (s : State) : (deliver s).agenda = s.agenda := by
  unfold deliver; split <;> [rfl; (split <;> rfl)]

@[simp] theorem present_cfg (s : State) : (present s).cfg = s.cfg := by
  unfold present; split <;> [rfl; (split <;> rfl)]

@[simp] theorem present_q (s : State) : (present s).q = s.q := by
  unfold present; split <;> [rfl; (split <;> rfl)]

@[simp] theorem present_held (s : State) : (present s).held = s.held := by
  unfold present; split <;> [rfl; (split <;> rfl)]

@[simp] theorem present_taken (s : State) : (present s).taken = s.taken := by
  unfold present; split <;> [rfl; (split <;> rfl)]

@[simp] theorem request_loadRequest (r : Request) (s : State) : (loadRequest r s).request = r := rfl

@[simp] theorem accepts_loadRequest (r : Request) (s : State) : (loadRequest r s).accepts = true := rfl

end Sys2Proof.Machine
end

