-- ==== Sys2Proof/Laws/Ops.lean ====
section
/-!
SUPPORT. What each shared operation can do, said once: answering, delivery, the pins of the next edge.
-/

namespace Sys2Proof.Machine

theorem respond_next_iff (r : Response) (s t : State) :
    respond r s = .next t ↔ t = { s with q := s.q ++ [r] } := by
  simp [respond, eq_comm]

theorem raiseIllegalCommand_eq (s : State) :
    raiseIllegalCommand s = .next { s with q := s.q ++ [⟨0#64, false, true⟩] } := rfl

theorem accepts_iff (s : State) : s.accepts = true ↔ s.rst = false ∧ s.reqValid = true ∧ s.reqReady = true := by
  simp [State.accepts, and_assoc]

theorem strapHeld_iff (s : State) : s.strapHeld = true ↔ ∀ p, s.strap = some p → p = s.cfg.policy := by
  unfold State.strapHeld; split <;> simp_all

theorem holdBroken_iff (s : State) :
    s.holdBroken = true ↔ ∃ r, s.held = some r ∧ (s.reqValid = false ∨ s.request ≠ r) := by
  unfold State.holdBroken; split
  · simp_all
  · rename_i r h; by_cases hv : s.reqValid <;> simp_all

theorem holdBroken_of_held_none {s : State} (h : s.held = none) : s.holdBroken = false := by
  simp [State.holdBroken, h]

/-- Delivery either leaves the state alone, or hands the valid response to the host. -/
theorem deliver_cases (s : State) :
    (deliver s = s ∧ (s.rsp = none ∨ s.rspReady = false)) ∨
    (∃ r, s.rsp = some r ∧ s.rspReady = true ∧
      deliver s = { s with q := s.q.tail, rsp := none, taken := s.taken ++ [r] }) := by
  unfold deliver; split
  · left; simp_all
  · rename_i r h
    by_cases hr : s.rspReady = true
    · right; exact ⟨r, h, hr, by simp [hr]⟩
    · left; simp_all

/-- The response at the pins, if it is the oldest of Q, moves from Q to the host: nothing is lost or reordered. -/
theorem deliver_keeps_order {s : State} (h : ∀ r, s.rsp = some r → s.q.head? = some r) :
    (deliver s).taken ++ (deliver s).q = s.taken ++ s.q := by
  obtain ⟨he, _⟩ | ⟨r, hr, _, he⟩ := deliver_cases s
  · rw [he]
  · rw [he]
    have hq := h r hr
    cases hs : s.q with
    | nil => simp [hs] at hq
    | cons x xs => simp_all

theorem responseAt_of_valid {s : State} {r : Response} (h : s.rsp = some r) (b : Bool) :
    responseAt s b = some r := by simp [responseAt, h]

theorem responseAt_of_empty {s : State} (hr : s.rsp = none) (hq : s.q = []) (b : Bool) :
    responseAt s b = none := by cases b <;> simp [responseAt, hr, hq]

/-- A response shown at the pins is the one that stood there, or the oldest of Q. -/
theorem responseAt_oldest {s : State} (h : ∀ r, s.rsp = some r → s.q.head? = some r) (b : Bool) :
    ∀ r, responseAt s b = some r → s.q.head? = some r := by
  intro r hr
  unfold responseAt at hr
  split at hr
  · rename_i r' h'; cases hr; exact h r h'
  · split at hr
    · exact hr
    · cases hr

theorem readyAt_room {s : State} {b : Bool} {rsp : Option Response} {rr : Bool}
    (h : readyAt s b rsp rr = true) : s.q.length < s.cfg.depth ∨ (rsp.isSome = true ∧ rr = true) := by
  simp only [readyAt, Bool.and_eq_true, Bool.or_eq_true, decide_eq_true_eq] at h
  exact h.2

/-- Bringing the next edge to the pins is driving some planned or idle edge, with the agenda shortened or not. -/
theorem present_cases (s : State) :
    ∃ (e : Edge) (req : Option Request) (rest : List Edge), present s = { drive s e req with agenda := rest } := by
  unfold present; split
  · exact ⟨{}, s.held, s.agenda, rfl⟩
  · split
    · exact ⟨{}, s.held, s.agenda, rfl⟩
    · exact ⟨_, _, _, rfl⟩

theorem present_of_agenda_nil {s : State} (h : s.agenda = []) : present s = driveIdle s := by
  simp [present, h]

/-- An idle edge presents the request that waits, and no other. -/
theorem request_driveIdle {s : State} {r : Request} (h : s.held = some r) : (driveIdle s).request = r := by
  simp [driveIdle, drive, State.request, h]

theorem operandWord_result_none {taken : List Response} {k : Nat} (h : taken.length < k) :
    operandWord taken (.result k) = none := by
  cases k with
  | zero => rfl
  | succ k => simp [operandWord, List.getElem?_eq_none (Nat.lt_succ_iff.mp h)]

end Sys2Proof.Machine
end

