-- ==== Sys2Proof/Laws/Answers.lean ====
section
/-!
SUPPORT. What exec answers, one lemma for each command: exec never stops and appends exactly one response.
-/

namespace Sys2Proof.Machine

theorem answersWith_iff (i : Instr) (s : State) (r : Response) :
    AnswersWith i s r ↔ exec i s = .next { s with q := s.q ++ [r] } := Iff.rfl

theorem answers_addW (a b : Word) (s : State) : AnswersWith (.addW a b) s (modeW (addCore a b)) := rfl

theorem answers_addC (a b : Word) (s : State) : AnswersWith (.addC a b) s (modeC s.cfg.policy (addCore a b)) := rfl

theorem answers_addS (a b : Word) (s : State) :
    AnswersWith (.addS a b) s (modeS s.cfg.policy (clampBySign a) (addCore a b)) := rfl

theorem answers_subW (a b : Word) (s : State) : AnswersWith (.subW a b) s (modeW (subCore a b)) := rfl

theorem answers_subC (a b : Word) (s : State) : AnswersWith (.subC a b) s (modeC s.cfg.policy (subCore a b)) := rfl

theorem answers_subS (a b : Word) (s : State) :
    AnswersWith (.subS a b) s (modeS s.cfg.policy (clampBySign a) (subCore a b)) := rfl

theorem answers_mulW (a b : Word) (s : State) :
    AnswersWith (.mulW a b) s (modeW (mulCore s.cfg.policy.noRounding a b)) := rfl

theorem answers_mulC (a b : Word) (s : State) :
    AnswersWith (.mulC a b) s (modeC s.cfg.policy (mulCore s.cfg.policy.noRounding a b)) := rfl

theorem answers_mulS (a b : Word) (s : State) :
    AnswersWith (.mulS a b) s
      (modeS s.cfg.policy (clampByAgreement a b) (mulCore s.cfg.policy.noRounding a b)) := rfl

theorem answers_divW (a b : Word) (s : State) :
    AnswersWith (.divW a b) s (modeW (divCore s.cfg.policy.noRounding a b)) := rfl

theorem answers_divC (a b : Word) (s : State) :
    AnswersWith (.divC a b) s (modeC s.cfg.policy (divCore s.cfg.policy.noRounding a b)) := rfl

theorem answers_divS (a b : Word) (s : State) : AnswersWith (.divS a b) s (divSResponse s.cfg.policy a b) := rfl

theorem answers_sqrt (a : Word) (s : State) :
    AnswersWith (.sqrt a) s (wordResponse (sqrtResult s.cfg.policy.noRounding a)) := rfl

theorem answers_sin (x : Word) (s : State) : AnswersWith (.sin x) s (wordResponse (sinCore s.cfg.sinLut x)) := rfl

theorem answers_cos (x : Word) (s : State) : AnswersWith (.cos x) s (wordResponse (cosCore s.cfg.sinLut x)) := rfl

theorem answers_tan (x : Word) (s : State) :
    AnswersWith (.tan x) s (divSResponse s.cfg.policy (sinCore s.cfg.sinLut x) (cosCore s.cfg.sinLut x)) := rfl

theorem answers_itox (n : Word) (s : State) :
    AnswersWith (.itox n) s (wordResponse (toWord (fixedOperand n * 65536))) := rfl

theorem answers_xtoi (a : Word) (s : State) :
    AnswersWith (.xtoi a) s (wordResponse (toWord (toInteger s.cfg.policy.noRounding (fixedOperand a)))) := rfl

theorem answers_stox (x : Word) (s : State) :
    AnswersWith (.stox x) s (wordResponse (fromFloat s.cfg.policy .binary32 (zext64 x))) := rfl

theorem answers_dtox (x : DWord) (s : State) :
    AnswersWith (.dtox x) s (wordResponse (fromFloat s.cfg.policy .binary64 x)) := rfl

theorem answers_xtos (a : Word) (s : State) : AnswersWith (.xtos a) s (dwordResponse (toBinary32 a)) := rfl

theorem answers_xtod (a : Word) (s : State) : AnswersWith (.xtod a) s (dwordResponse (toBinary64 a)) := rfl

theorem answers_floor (a : Word) (s : State) : AnswersWith (.floor a) s (wordResponse (floorResult a)) := rfl

theorem answers_ceil (a : Word) (s : State) : AnswersWith (.ceil a) s (wordResponse (ceilResult a)) := rfl

/-- Every zero is encoded as +0.0 (R11). -/
@[simp] theorem bitsF_zero (f : FloatFormat) (neg : Bool) (e : Int) : bitsF f (.finite neg 0 e) = 0#64 := by
  cases f <;> rfl

/-- The command's response determines the answer: two responses that AnswersWith relates to one command are equal. -/
theorem answersWith_unique {i : Instr} {s : State} {r r' : Response}
    (h : AnswersWith i s r) (h' : AnswersWith i s r') : r = r' := by
  have e : Host.Outcome.next (φ := Fault) (ρ := Refusal) { s with q := s.q ++ [r] } = .next { s with q := s.q ++ [r'] } :=
    h.symm.trans h'
  injection e with e
  have eq : s.q ++ [r] = s.q ++ [r'] := congrArg State.q e
  simpa using eq

end Sys2Proof.Machine
end

