-- ==== Sys2Proof/Laws/Edge.lean ====
section
/-!
SUPPORT. What one clock edge can do: the inversion of the step, which invariants are derived from.
-/

namespace Sys2Proof.Machine

theorem step_eq (s : State) : step s = clockEdge s := rfl

/-- exec appends exactly one response, whatever the command. -/
theorem exec_answers (i : Instr) (s : State) : ∃ r, AnswersWith i s r := by
  cases i <;> exact ⟨_, rfl⟩

/-- An accepted request is answered by exactly one response: its command's, or the illegal-command response. -/
theorem acceptCommand_answers (s : State) :
    ∃ r, acceptCommand s = .next { s with q := s.q ++ [r] } ∧
      ((∃ i, decode s.request = .ok i ∧ AnswersWith i s r) ∨
        (∃ e, decode s.request = .error e ∧ r = illegalResponse)) := by
  unfold acceptCommand
  cases h : decode s.request with
  | ok i =>
    obtain ⟨r, hr⟩ := exec_answers i s
    exact ⟨r, hr, .inl ⟨i, rfl, hr⟩⟩
  | error e => exact ⟨illegalResponse, rfl, .inr ⟨e, rfl, rfl⟩⟩

/-- Acceptance never stops: it leaves the state alone, or answers the request at the port. -/
theorem acceptance_cases (s : State) :
    (s.accepts = false ∧ acceptance s = .next s) ∨
    (s.accepts = true ∧ ∃ r, acceptance s = .next { s with q := s.q ++ [r] } ∧
      ((∃ i, decode s.request = .ok i ∧ AnswersWith i s r) ∨
        (∃ e, decode s.request = .error e ∧ r = illegalResponse))) := by
  unfold acceptance
  cases h : s.accepts with
  | false => exact .inl ⟨rfl, rfl⟩
  | true => exact .inr ⟨rfl, by simpa using acceptCommand_answers s⟩

/-- Everything a step that answers a next state can have done. -/
theorem step_next_cases {s t : State} (h : step s = .next t) :
    s.strapHeld = true ∧ lutAccepted s.cfg = true ∧ (s.rspRead = true → s.rsp.isSome = true) ∧
    ((s.rst = true ∧ t = present (resetEdge s)) ∨
      (s.rst = false ∧ s.holdBroken = false ∧ s.accepts = false ∧ t = finishEdge s) ∨
      (s.rst = false ∧ s.holdBroken = false ∧ s.accepts = true ∧
        ∃ r, t = finishEdge { s with q := s.q ++ [r] } ∧
          ((∃ i, decode s.request = .ok i ∧ AnswersWith i s r) ∨
            (∃ e, decode s.request = .error e ∧ r = illegalResponse)))) := by
  rw [step_eq] at h
  unfold clockEdge at h
  split at h
  · cases h
  rename_i hstrap
  split at h
  · cases h
  rename_i hlut
  split at h
  · cases h
  rename_i hread
  refine ⟨by simpa using hstrap, by simpa using hlut, ?_, ?_⟩
  · intro hr; cases hs : s.rsp <;> simp_all
  split at h
  · rename_i hrst; injection h with h; exact .inl ⟨hrst, h.symm⟩
  rename_i hrst
  split at h
  · cases h
  rename_i hhold
  simp only [Bool.not_eq_true] at hrst hhold
  obtain ⟨hacc, he⟩ | ⟨hacc, r, he, hr⟩ := acceptance_cases s
  · rw [he] at h; injection h with h; exact .inr (.inl ⟨hrst, hhold, hacc, h.symm⟩)
  · rw [he] at h; injection h with h; exact .inr (.inr ⟨hrst, hhold, hacc, r, h.symm, hr⟩)

/-- An admissible edge with rst = 1. -/
theorem step_of_reset {s : State} (ha : s.Admissible) (hr : s.rst = true) :
    step s = .next (present (resetEdge s)) := by
  have hread : (s.rspRead && s.rsp.isNone) = false := by
    cases h : s.rspRead with
    | false => rfl
    | true => have := ha.read h; cases hs : s.rsp <;> simp_all
  simp [step_eq, clockEdge, ha.strap, ha.table, hread, hr]

/-- An admissible edge with rst = 0 is acceptance and then what every edge does. -/
theorem step_of_admissible {s t : State} (ha : s.Admissible) (hr : s.rst = false)
    (h : acceptance s = .next t) : step s = .next (finishEdge t) := by
  have hread : (s.rspRead && s.rsp.isNone) = false := by
    cases h : s.rspRead with
    | false => rfl
    | true => have := ha.read h; cases hs : s.rsp <;> simp_all
  have hh : s.holdBroken = false := by
    rcases ha.holds with h | h
    · simp [hr] at h
    · exact h
  simp [step_eq, clockEdge, ha.strap, ha.table, hread, hr, hh, h]

/-- Every step from an admissible state answers a next state. -/
theorem step_of_admissible_next {s : State} (ha : s.Admissible) : ∃ t, step s = .next t := by
  cases hr : s.rst with
  | true => exact ⟨_, step_of_reset ha hr⟩
  | false =>
    obtain ⟨_, he⟩ | ⟨_, r, he, _⟩ := acceptance_cases s
    · exact ⟨_, step_of_admissible ha hr he⟩
    · exact ⟨_, step_of_admissible ha hr he⟩

@[simp] theorem finishEdge_cfg (s : State) : (finishEdge s).cfg = s.cfg := by simp [finishEdge]

/-- Noting a held request does not change what is delivered. -/
theorem deliver_noteHeld (s : State) :
    (deliver (noteHeld s)).q = (deliver s).q ∧ (deliver (noteHeld s)).taken = (deliver s).taken ∧
      (deliver (noteHeld s)).rsp = (deliver s).rsp := by
  unfold deliver
  cases h : s.rsp <;> cases hr : s.rspReady <;> simp [h, hr]

@[simp] theorem finishEdge_q (s : State) : (finishEdge s).q = (deliver s).q := by
  simp [finishEdge, (deliver_noteHeld s).1]

@[simp] theorem finishEdge_taken (s : State) : (finishEdge s).taken = (deliver s).taken := by
  simp [finishEdge, (deliver_noteHeld s).2.1]

/-- A run of n + 1 edges whose first answers a next state is the run of n edges from that state. -/
theorem run_succ_of_next {n : Nat} {s t : State} (h : step s = .next t) :
    Sys2Proof.core.run (n + 1) s = Sys2Proof.core.run n t := by
  simp only [Host.Core.run, Sys2Proof.core]
  rw [h]

/-- A run that answers a next state after n + 1 edges took its first. -/
theorem run_succ_next {n : Nat} {s u : State} (h : Sys2Proof.core.run (n + 1) s = .next u) :
    ∃ t, step s = .next t ∧ Sys2Proof.core.run n t = .next u := by
  simp only [Host.Core.run, Sys2Proof.core] at h
  split at h
  · exact ⟨_, ‹_›, h⟩
  · cases h
  · cases h

end Sys2Proof.Machine
end

