-- ==== Sys2Proof/Laws/PerInstr.lean ====
section
/-!
SUPPORT. Per-command families: what holds of each command as syntax.
-/

namespace Sys2Proof.Laws

/-- EncodingLegal: the encoding of a command has a CMD that R44 does not reserve, and zero in every bit R41 says the
command ignores. -/
def EncodingLegal.Statement (i : Instr) : Prop :=
  legalCmd (encode i).cmd = true ∧
    (16 ≤ (encode i).cmd.toNat → (encode i).b = 0#32) ∧
    ((encode i).cmd ≠ 0x30#8 → (encode i).a.toNat < 2 ^ 32)

/-- A zero-extended word fits in 32 bits. -/
theorem zext64_lt (a : Word) : (zext64 a).toNat < 2 ^ 32 := by
  have := a.isLt
  simp only [zext64, BitVec.toNat_setWidth]; omega

theorem EncodingLegal.addW (a b : Word) : EncodingLegal.Statement (.addW a b) :=
  ⟨(by decide : legalCmd 0x00#8 = true), fun h => absurd h (by simp [encode]), fun _ => zext64_lt a⟩

theorem EncodingLegal.addC (a b : Word) : EncodingLegal.Statement (.addC a b) :=
  ⟨(by decide : legalCmd 0x01#8 = true), fun h => absurd h (by simp [encode]), fun _ => zext64_lt a⟩

theorem EncodingLegal.addS (a b : Word) : EncodingLegal.Statement (.addS a b) :=
  ⟨(by decide : legalCmd 0x02#8 = true), fun h => absurd h (by simp [encode]), fun _ => zext64_lt a⟩

theorem EncodingLegal.subW (a b : Word) : EncodingLegal.Statement (.subW a b) :=
  ⟨(by decide : legalCmd 0x04#8 = true), fun h => absurd h (by simp [encode]), fun _ => zext64_lt a⟩

theorem EncodingLegal.subC (a b : Word) : EncodingLegal.Statement (.subC a b) :=
  ⟨(by decide : legalCmd 0x05#8 = true), fun h => absurd h (by simp [encode]), fun _ => zext64_lt a⟩

theorem EncodingLegal.subS (a b : Word) : EncodingLegal.Statement (.subS a b) :=
  ⟨(by decide : legalCmd 0x06#8 = true), fun h => absurd h (by simp [encode]), fun _ => zext64_lt a⟩

theorem EncodingLegal.mulW (a b : Word) : EncodingLegal.Statement (.mulW a b) :=
  ⟨(by decide : legalCmd 0x08#8 = true), fun h => absurd h (by simp [encode]), fun _ => zext64_lt a⟩

theorem EncodingLegal.mulC (a b : Word) : EncodingLegal.Statement (.mulC a b) :=
  ⟨(by decide : legalCmd 0x09#8 = true), fun h => absurd h (by simp [encode]), fun _ => zext64_lt a⟩

theorem EncodingLegal.mulS (a b : Word) : EncodingLegal.Statement (.mulS a b) :=
  ⟨(by decide : legalCmd 0x0A#8 = true), fun h => absurd h (by simp [encode]), fun _ => zext64_lt a⟩

theorem EncodingLegal.divW (a b : Word) : EncodingLegal.Statement (.divW a b) :=
  ⟨(by decide : legalCmd 0x0C#8 = true), fun h => absurd h (by simp [encode]), fun _ => zext64_lt a⟩

theorem EncodingLegal.divC (a b : Word) : EncodingLegal.Statement (.divC a b) :=
  ⟨(by decide : legalCmd 0x0D#8 = true), fun h => absurd h (by simp [encode]), fun _ => zext64_lt a⟩

theorem EncodingLegal.divS (a b : Word) : EncodingLegal.Statement (.divS a b) :=
  ⟨(by decide : legalCmd 0x0E#8 = true), fun h => absurd h (by simp [encode]), fun _ => zext64_lt a⟩

theorem EncodingLegal.sqrt (a : Word) : EncodingLegal.Statement (.sqrt a) :=
  ⟨(by decide : legalCmd 0x10#8 = true), fun _ => rfl, fun _ => zext64_lt a⟩

theorem EncodingLegal.sin (a : Word) : EncodingLegal.Statement (.sin a) :=
  ⟨(by decide : legalCmd 0x14#8 = true), fun _ => rfl, fun _ => zext64_lt a⟩

theorem EncodingLegal.cos (a : Word) : EncodingLegal.Statement (.cos a) :=
  ⟨(by decide : legalCmd 0x18#8 = true), fun _ => rfl, fun _ => zext64_lt a⟩

theorem EncodingLegal.tan (a : Word) : EncodingLegal.Statement (.tan a) :=
  ⟨(by decide : legalCmd 0x1C#8 = true), fun _ => rfl, fun _ => zext64_lt a⟩

theorem EncodingLegal.itox (a : Word) : EncodingLegal.Statement (.itox a) :=
  ⟨(by decide : legalCmd 0x20#8 = true), fun _ => rfl, fun _ => zext64_lt a⟩

theorem EncodingLegal.xtoi (a : Word) : EncodingLegal.Statement (.xtoi a) :=
  ⟨(by decide : legalCmd 0x24#8 = true), fun _ => rfl, fun _ => zext64_lt a⟩

theorem EncodingLegal.stox (a : Word) : EncodingLegal.Statement (.stox a) :=
  ⟨(by decide : legalCmd 0x28#8 = true), fun _ => rfl, fun _ => zext64_lt a⟩

theorem EncodingLegal.xtos (a : Word) : EncodingLegal.Statement (.xtos a) :=
  ⟨(by decide : legalCmd 0x2C#8 = true), fun _ => rfl, fun _ => zext64_lt a⟩

theorem EncodingLegal.dtox (x : DWord) : EncodingLegal.Statement (.dtox x) :=
  ⟨(by decide : legalCmd 0x30#8 = true), fun _ => rfl, fun h => absurd rfl h⟩

theorem EncodingLegal.xtod (a : Word) : EncodingLegal.Statement (.xtod a) :=
  ⟨(by decide : legalCmd 0x34#8 = true), fun _ => rfl, fun _ => zext64_lt a⟩

theorem EncodingLegal.floor (a : Word) : EncodingLegal.Statement (.floor a) :=
  ⟨(by decide : legalCmd 0x38#8 = true), fun _ => rfl, fun _ => zext64_lt a⟩

theorem EncodingLegal.ceil (a : Word) : EncodingLegal.Statement (.ceil a) :=
  ⟨(by decide : legalCmd 0x3C#8 = true), fun _ => rfl, fun _ => zext64_lt a⟩

end Sys2Proof.Laws
end

