-- ==== Sys2Proof/Laws/SinLut.lean ====
section
/-!
SUPPORT. The table: every entry of the candidate lies in [0, ONE]; elaboration keeps the canonical form, reads back
what it set, and leaves every other entry alone.
-/

namespace Sys2Proof.Machine

theorem candidateEntry_toInt (i : Nat) :
    (candidateEntry i).toInt = (min ((sineScaled i + 2 ^ 47) / 2 ^ 48) 65536 : Nat) := by
  unfold candidateEntry
  generalize hm : min ((sineScaled i + 2 ^ 47) / 2 ^ 48) 65536 = m
  have : m ≤ 65536 := by omega
  rw [BitVec.toInt_eq_toNat_of_lt] <;> simp only [BitVec.toNat_ofNat] <;> omega

/-- R111 constraint 4 with R110's bound, for the candidate. -/
theorem candidateEntry_range (i : Nat) : 0 ≤ (candidateEntry i).toInt ∧ (candidateEntry i).toInt ≤ 65536 := by
  rw [candidateEntry_toInt]; omega

@[simp] theorem lutRead_nil (i : Nat) : lutRead [] i = candidateEntry i := rfl

theorem lutRead_cons (j i : Nat) (v : Word) (t : SinLut) :
    lutRead ((j, v) :: t) i = if i = j then v else lutRead t i := by
  unfold lutRead
  by_cases h : i = j
  · simp [h]
  · simp [List.lookup, h, beq_eq_false_iff_ne.mpr h]

theorem lutCanonicalFrom_cons (n i : Nat) (w : Word) (t : SinLut) :
    lutCanonicalFrom n ((i, w) :: t) = true ↔
      n ≤ i ∧ i < lutCount ∧ w ≠ candidateEntry i ∧ lutCanonicalFrom (i + 1) t = true := by
  simp [lutCanonicalFrom, and_assoc]

/-- A canonical table from `n` on is canonical from every earlier index. -/
theorem lutCanonicalFrom_mono {n m : Nat} (h : m ≤ n) {t : SinLut} (ht : lutCanonicalFrom n t = true) :
    lutCanonicalFrom m t = true := by
  cases t with
  | nil => rfl
  | cons p t => obtain ⟨i, w⟩ := p; rw [lutCanonicalFrom_cons] at *; exact ⟨by omega, ht.2⟩

/-- Below its first index a canonical table is the candidate. -/
theorem lutRead_below {n : Nat} {t : SinLut} (ht : lutCanonicalFrom n t = true) {i : Nat} (hi : i < n) :
    lutRead t i = candidateEntry i := by
  induction t generalizing n with
  | nil => rfl
  | cons p t ih =>
    obtain ⟨j, v⟩ := p
    rw [lutCanonicalFrom_cons] at ht
    rw [lutRead_cons, if_neg (by omega), ih ht.2.2.2 (by omega)]

theorem lutSet_canonicalFrom {n : Nat} {t : SinLut} (ht : lutCanonicalFrom n t = true) {i : Nat} (hn : n ≤ i)
    (hi : i < lutCount) (w : Word) : lutCanonicalFrom n (lutSet t i w) = true := by
  induction t generalizing n with
  | nil => unfold lutSet; split <;> simp_all [lutCanonicalFrom]
  | cons p t ih =>
    obtain ⟨j, v⟩ := p
    have hc := (lutCanonicalFrom_cons n j v t).mp ht
    unfold lutSet
    split
    · split
      · exact ht
      · rw [lutCanonicalFrom_cons]
        exact ⟨hn, hi, by assumption, (lutCanonicalFrom_cons _ _ _ _).mpr ⟨by omega, hc.2⟩⟩
    · split
      · subst_vars
        split
        · exact lutCanonicalFrom_mono (by omega) hc.2.2.2
        · rw [lutCanonicalFrom_cons]; exact ⟨hn, hi, by assumption, hc.2.2.2⟩
      · rw [lutCanonicalFrom_cons]
        exact ⟨hc.1, hc.2.1, hc.2.2.1, ih hc.2.2.2 (by omega)⟩

/-- Elaborating an entry keeps the canonical form. -/
theorem lutSet_canonical {t : SinLut} (ht : lutCanonical t = true) {i : Nat} (hi : i < lutCount) (w : Word) :
    lutCanonical (lutSet t i w) = true := lutSet_canonicalFrom ht (Nat.zero_le i) hi w

/-- A table reads back the entry that was set, and every other entry as before. -/
theorem lutRead_lutSet {n : Nat} {t : SinLut} (ht : lutCanonicalFrom n t = true) (i j : Nat) (w : Word) :
    lutRead (lutSet t i w) j = if j = i then w else lutRead t j := by
  induction t generalizing n with
  | nil =>
    unfold lutSet
    split
    · split <;> simp_all
    · rw [lutRead_cons]
  | cons p t ih =>
    obtain ⟨k, v⟩ := p
    have hc := (lutCanonicalFrom_cons n k v t).mp ht
    unfold lutSet
    split
    · split
      · split
        · subst_vars
          rw [lutRead_below ((lutCanonicalFrom_cons k k v t).mpr ⟨le_refl _, hc.2⟩) (by assumption)]
        · rfl
      · rw [lutRead_cons]
    · split
      · subst_vars
        split
        · split
          · subst_vars; rw [lutRead_below hc.2.2.2 (by omega)]
          · rename_i hne; rw [lutRead_cons, if_neg hne]
        · rw [lutRead_cons, lutRead_cons]; split <;> rfl
      · rw [lutRead_cons, lutRead_cons, ih hc.2.2.2]
        by_cases h1 : j = k <;> by_cases h2 : j = i <;> simp_all

/-- Equal tables are equal data: two canonical tables that read alike are the same list. -/
theorem lutCanonical_ext {n : Nat} {t u : SinLut} (ht : lutCanonicalFrom n t = true) (hu : lutCanonicalFrom n u = true)
    (h : ∀ i, lutRead t i = lutRead u i) : t = u := by
  induction t generalizing n u with
  | nil =>
    cases u with
    | nil => rfl
    | cons q u =>
      obtain ⟨j, v⟩ := q
      have hc := (lutCanonicalFrom_cons n j v u).mp hu
      exact absurd ((h j).symm.trans rfl) (by simpa [lutRead_cons] using hc.2.2.1)
  | cons p t ih =>
    obtain ⟨i, w⟩ := p
    have hp := (lutCanonicalFrom_cons n i w t).mp ht
    cases u with
    | nil => exact absurd (h i) (by simpa [lutRead_cons] using hp.2.2.1)
    | cons q u =>
      obtain ⟨j, v⟩ := q
      have hq := (lutCanonicalFrom_cons n j v u).mp hu
      have hij : i = j := by
        rcases Nat.lt_trichotomy i j with hlt | heq | hgt
        · have e := h i
          rw [lutRead_cons, if_pos rfl,
            lutRead_below ((lutCanonicalFrom_cons j j v u).mpr ⟨le_refl _, hq.2⟩) hlt] at e
          exact absurd e hp.2.2.1
        · exact heq
        · have e := h j
          rw [lutRead_cons j, if_pos rfl,
            lutRead_below ((lutCanonicalFrom_cons i i w t).mpr ⟨le_refl _, hp.2⟩) hgt] at e
          exact absurd e.symm hq.2.2.1
      subst hij
      have hwv : w = v := by have e := h i; simpa [lutRead_cons] using e
      subst hwv
      congr 1
      refine ih hp.2.2.2 hq.2.2.2 (fun k => ?_)
      by_cases hk : k = i
      · subst hk; rw [lutRead_below hp.2.2.2 (by omega), lutRead_below hq.2.2.2 (by omega)]
      · have e := h k; simpa [lutRead_cons, hk] using e

end Sys2Proof.Machine
end

