-- ==== Sys2Proof/Tests/Slice0.lean ====
section
/-!
SUPPORT. The model's own tests. Expected results are the spec's: 95_test_vectors.md, and the encodings of
30_encoding.md R37 to R41.
-/

namespace Sys2Proof.Tests

-- One theorem after another: many kernel evaluations at once wait on each other, a thread each.
set_option Elab.async false

open Sys2Proof Sys2Proof.Machine

/-! ### Helpers -/

/-- The clean state under another policy. -/
def withPolicy (p : Policy) : State := { State.reset with cfg := { State.reset.cfg with policy := p } }

def truncating : State := withPolicy { Policy.standard with noRounding := true }
def sentinelValue : State := withPolicy { Policy.standard with ovfValue := .sentinel }
def sentinelDetect : State := withPolicy { Policy.standard with satDetect := .sentinel }
def saturatingFloat : State := withPolicy { Policy.standard with floatOor := .saturate }

/-- The youngest response of Q after an outcome: (Y, V, ILL). -/
def answer (o : Outcome) : Option (Nat × Bool × Bool) :=
  match o with
  | .next t => t.q.getLast?.map (fun r => (r.y.toNat, r.v, r.ill))
  | _ => none

/-- An unflagged answer. -/
def value (y : Nat) : Option (Nat × Bool × Bool) := some (y, false, false)

/-- The answer of one clock edge to a request on the port. -/
def edgeAnswer (cmd : Cmd) (a : DWord) (b : Word) (s : State) : Option (Nat × Bool × Bool) :=
  answer (step (loadRequest ⟨cmd, a, b⟩ s))

/-! ### WellFormed: one ill-formed term for each check -/

theorem test_mode3_of_add_is_reserved : legalFields 0x00#6 3#2 = false := by decide
theorem test_mode1_of_sqrt_is_reserved : legalFields 0x04#6 1#2 = false := by decide
theorem test_func16_is_reserved : legalFields 0x10#6 0#2 = false := by decide
theorem test_program_with_reserved_cmd_is_ill_formed :
    programWellFormed [⟨0x03#8, .word 0, .word 0⟩] = false := by decide
theorem test_program_naming_a_later_result_is_ill_formed :
    programWellFormed [⟨0x08#8, .word 0, .result 1⟩] = false := by decide
theorem test_program_naming_result_zero_is_ill_formed :
    programWellFormed [⟨0x20#8, .word 5, .word 0⟩, ⟨0x24#8, .result 0, .word 0⟩] = false := by decide
theorem test_latency_zero_is_ill_formed : { Config.standard with latency := 0 }.wellFormed = false := by decide
theorem test_depth_zero_is_ill_formed : { Config.standard with depth := 0 }.wellFormed = false := by decide
theorem test_table_out_of_order_is_ill_formed : lutCanonical [(5, 9#32), (5, 8#32)] = false := by decide +kernel
theorem test_table_past_its_end_is_ill_formed : lutCanonical [(102944, 9#32)] = false := by decide +kernel
theorem test_table_entry_of_the_candidate_is_ill_formed : lutCanonical [(3, 3#32)] = false := by decide +kernel
theorem test_well_formed_program :
    programWellFormed [⟨0x20#8, .word 5, .word 0⟩, ⟨0x24#8, .result 1, .word 0⟩] = true := by decide
theorem test_reset_config_is_well_formed : State.reset.cfg.wellFormed = true := by decide

/-! ### Decode: CMD written bit by bit as FUNC[7:2] MODE[1:0] (R37 to R41) -/

theorem test_decode_addW (a : DWord) (b : Word) : decode ⟨0b00000000#8, a, b⟩ = .ok (.addW (a.setWidth 32) b) := by
  simp [decode, funcOf, modeOf, decodeBinary]
theorem test_decode_addC (a : DWord) (b : Word) : decode ⟨0b00000001#8, a, b⟩ = .ok (.addC (a.setWidth 32) b) := by
  simp [decode, funcOf, modeOf, decodeBinary]
theorem test_decode_addS (a : DWord) (b : Word) : decode ⟨0b00000010#8, a, b⟩ = .ok (.addS (a.setWidth 32) b) := by
  simp [decode, funcOf, modeOf, decodeBinary]
theorem test_decode_subW (a : DWord) (b : Word) : decode ⟨0b00000100#8, a, b⟩ = .ok (.subW (a.setWidth 32) b) := by
  simp [decode, funcOf, modeOf, decodeBinary]
theorem test_decode_subC (a : DWord) (b : Word) : decode ⟨0b00000101#8, a, b⟩ = .ok (.subC (a.setWidth 32) b) := by
  simp [decode, funcOf, modeOf, decodeBinary]
theorem test_decode_subS (a : DWord) (b : Word) : decode ⟨0b00000110#8, a, b⟩ = .ok (.subS (a.setWidth 32) b) := by
  simp [decode, funcOf, modeOf, decodeBinary]
theorem test_decode_mulW (a : DWord) (b : Word) : decode ⟨0b00001000#8, a, b⟩ = .ok (.mulW (a.setWidth 32) b) := by
  simp [decode, funcOf, modeOf, decodeBinary]
theorem test_decode_mulC (a : DWord) (b : Word) : decode ⟨0b00001001#8, a, b⟩ = .ok (.mulC (a.setWidth 32) b) := by
  simp [decode, funcOf, modeOf, decodeBinary]
theorem test_decode_mulS (a : DWord) (b : Word) : decode ⟨0b00001010#8, a, b⟩ = .ok (.mulS (a.setWidth 32) b) := by
  simp [decode, funcOf, modeOf, decodeBinary]
theorem test_decode_divW (a : DWord) (b : Word) : decode ⟨0b00001100#8, a, b⟩ = .ok (.divW (a.setWidth 32) b) := by
  simp [decode, funcOf, modeOf, decodeBinary]
theorem test_decode_divC (a : DWord) (b : Word) : decode ⟨0b00001101#8, a, b⟩ = .ok (.divC (a.setWidth 32) b) := by
  simp [decode, funcOf, modeOf, decodeBinary]
theorem test_decode_divS (a : DWord) (b : Word) : decode ⟨0b00001110#8, a, b⟩ = .ok (.divS (a.setWidth 32) b) := by
  simp [decode, funcOf, modeOf, decodeBinary]
theorem test_decode_sqrt (a : DWord) (b : Word) : decode ⟨0b00010000#8, a, b⟩ = .ok (.sqrt (a.setWidth 32)) := by
  simp [decode, funcOf, modeOf, decodeUnary]
theorem test_decode_sin (a : DWord) (b : Word) : decode ⟨0b00010100#8, a, b⟩ = .ok (.sin (a.setWidth 32)) := by
  simp [decode, funcOf, modeOf, decodeUnary]
theorem test_decode_cos (a : DWord) (b : Word) : decode ⟨0b00011000#8, a, b⟩ = .ok (.cos (a.setWidth 32)) := by
  simp [decode, funcOf, modeOf, decodeUnary]
theorem test_decode_tan (a : DWord) (b : Word) : decode ⟨0b00011100#8, a, b⟩ = .ok (.tan (a.setWidth 32)) := by
  simp [decode, funcOf, modeOf, decodeUnary]
theorem test_decode_itox (a : DWord) (b : Word) : decode ⟨0b00100000#8, a, b⟩ = .ok (.itox (a.setWidth 32)) := by
  simp [decode, funcOf, modeOf, decodeUnary]
theorem test_decode_xtoi (a : DWord) (b : Word) : decode ⟨0b00100100#8, a, b⟩ = .ok (.xtoi (a.setWidth 32)) := by
  simp [decode, funcOf, modeOf, decodeUnary]
theorem test_decode_stox (a : DWord) (b : Word) : decode ⟨0b00101000#8, a, b⟩ = .ok (.stox (a.setWidth 32)) := by
  simp [decode, funcOf, modeOf, decodeUnary]
theorem test_decode_xtos (a : DWord) (b : Word) : decode ⟨0b00101100#8, a, b⟩ = .ok (.xtos (a.setWidth 32)) := by
  simp [decode, funcOf, modeOf, decodeUnary]
theorem test_decode_dtox (a : DWord) (b : Word) : decode ⟨0b00110000#8, a, b⟩ = .ok (.dtox a) := by
  simp [decode, funcOf, modeOf, decodeUnary]
theorem test_decode_xtod (a : DWord) (b : Word) : decode ⟨0b00110100#8, a, b⟩ = .ok (.xtod (a.setWidth 32)) := by
  simp [decode, funcOf, modeOf, decodeUnary]
theorem test_decode_floor (a : DWord) (b : Word) : decode ⟨0b00111000#8, a, b⟩ = .ok (.floor (a.setWidth 32)) := by
  simp [decode, funcOf, modeOf, decodeUnary]
theorem test_decode_ceil (a : DWord) (b : Word) : decode ⟨0b00111100#8, a, b⟩ = .ok (.ceil (a.setWidth 32)) := by
  simp [decode, funcOf, modeOf, decodeUnary]

/-- R44's three kinds, on vectors of section 2.8. -/
theorem test_decode_reserved :
    decode ⟨0x03#8, 0, 0⟩ = .error .modeOfBinary ∧ decode ⟨0x0F#8, 0, 0⟩ = .error .modeOfBinary ∧
    decode ⟨0x12#8, 0, 0⟩ = .error .modeOfUnary ∧ decode ⟨0x3D#8, 0, 0⟩ = .error .modeOfUnary ∧
    decode ⟨0x40#8, 0, 0⟩ = .error .func ∧ decode ⟨0xFF#8, 0, 0⟩ = .error .func := by
  decide +kernel

/-- The counting check of R45: 24 legal values. -/
theorem test_decode_count : ((List.range 256).filter (fun n => legalCmd (BitVec.ofNat 8 n))).length = 24 := by
  decide +kernel

theorem test_table_word : decodeTableWord 8 0x0D = some (.divC 0 0) ∧ decodeTableWord 8 0x43 = none := by
  decide +kernel

/-! ### One command at one edge (section 2) -/

theorem test_addW_ignores_high_bits : edgeAnswer 0x00 0xFFFFFFFF00000001 0x00000002 State.reset = value 3 := by
  decide +kernel
theorem test_addW_wraps : answer (exec (.addW 0x7FFFFFFF 0x00010000) State.reset) = value 0x8000FFFF := by
  decide +kernel
theorem test_addC_overflow :
    answer (exec (.addC 0x7FFFFFFF 0x00010000) State.reset) = some (0x8000FFFF, true, false) := by decide +kernel
theorem test_addC_sentinel :
    answer (exec (.addC 0x7FFFFFFF 0x00010000) sentinelValue) = some (0x80000000, true, false) := by decide +kernel
theorem test_addS_clamps : answer (exec (.addS 0x7FFF0000 0x00010000) State.reset) = value 0x7FFFFFFF := by
  decide +kernel
theorem test_addS_sentinel_pair : answer (exec (.addS 0 0x80000000) sentinelDetect) = value 0x7FFFFFFF := by
  decide +kernel
theorem test_subW_order : answer (exec (.subW 0x00028000 0x00018000) State.reset) = value 0x00010000 := by
  decide +kernel
theorem test_subC_overflow :
    answer (exec (.subC 0x80000000 0x00000001) State.reset) = some (0x7FFFFFFF, true, false) := by decide +kernel
theorem test_subS_clamps : answer (exec (.subS 0 0x80000000) State.reset) = value 0x7FFFFFFF := by decide +kernel
theorem test_mulW_negative_tie : answer (exec (.mulW 0xFFFFFFFF 0x00008000) State.reset) = value 0xFFFFFFFF := by
  decide +kernel
theorem test_mulW_tie : answer (exec (.mulW 0x00000001 0x00008000) State.reset) = value 1 := by decide +kernel
theorem test_mulC_overflow :
    answer (exec (.mulC 0x00B60000 0x00B60000) State.reset) = some (0x81640000, true, false) := by decide +kernel
theorem test_mulC_exact_min : answer (exec (.mulC 0x80000000 0x00010000) State.reset) = value 0x80000000 := by
  decide +kernel
theorem test_mulS_window_flag : answer (exec (.mulS 0x00A1E58F 0x00CA6691) State.reset) = value 0x80000000 := by
  decide +kernel
theorem test_mulS_window_sentinel : answer (exec (.mulS 0x00A1E58F 0x00CA6691) sentinelDetect) = value 0x7FFFFFFF := by
  decide +kernel
theorem test_divW_seed_off_by_one : answer (exec (.divW 0xB54B2667 0x00174326) State.reset) = value 0xFCC9DC56 := by
  decide +kernel
theorem test_divW_third : answer (exec (.divW 0x00010000 0x00030000) State.reset) = value 0x00005555 := by
  decide +kernel
theorem test_divC_min_by_one :
    answer (exec (.divC 0x80000000 0x00010000) State.reset) = some (0x80000000, true, false) := by decide +kernel
theorem test_divC_zero : answer (exec (.divC 0x00050000 0) State.reset) = value 0x80000000 := by decide +kernel
theorem test_divS_clamps : answer (exec (.divS 0x00010000 0x00000001) State.reset) = value 0x7FFFFFFF := by
  decide +kernel
theorem test_divS_zero_sentinel : answer (exec (.divS 0x00050000 0) sentinelDetect) = value 0x7FFFFFFF := by
  decide +kernel
theorem test_sqrt_of_22 : answer (exec (.sqrt 0x00160000) State.reset) = value 0x0004B0BF := by decide +kernel
theorem test_sqrt_below_the_root : answer (exec (.sqrt 0x79F248B0) truncating) = value 0x00B0AFDC := by decide +kernel
theorem test_sin_of_203 : answer (exec (.sin 0x00CB0000) State.reset) = value 0x0000EEE4 := by decide +kernel
theorem test_sin_clamp_negated : answer (exec (.sin 0x0004B65E) State.reset) = value 0xFFFF0000 := by decide +kernel
theorem test_cos_of_4203 : answer (exec (.cos 0x106B0000) State.reset) = value 0x0000E758 := by decide +kernel
theorem test_cos_wraps : answer (exec (.cos 0x7FFFFFFF) State.reset) = value 0x00004F89 := by decide +kernel
theorem test_tan_of_2193 : answer (exec (.tan 0x08910000) State.reset) = value 0x00002CAC := by decide +kernel
theorem test_tan_zero_cosine : answer (exec (.tan 0x00019220) State.reset) = value 0x80000000 := by decide +kernel
theorem test_itox_wraps : answer (exec (.itox 40000) State.reset) = value 0x9C400000 := by decide +kernel
theorem test_xtoi_of_max : answer (exec (.xtoi 0x7FFFFFFF) State.reset) = value 0x00008000 := by decide +kernel
theorem test_xtoi_floors : answer (exec (.xtoi 0xFFFEC000) truncating) = value 0xFFFFFFFE := by decide +kernel
theorem test_stox_tie : answer (exec (.stox 0x43000001) State.reset) = value 0x00800002 := by decide +kernel
theorem test_stox_saturates : answer (exec (.stox 0xFF800000) saturatingFloat) = value 0x80000000 := by decide +kernel
theorem test_dtox_rounds_past_max : answer (exec (.dtox 0x40DFFFFFFFE00000) State.reset) = value 0x80000000 := by
  decide +kernel
theorem test_dtox_nan_saturates : answer (exec (.dtox 0x7FF8000000000000) saturatingFloat) = value 0 := by
  decide +kernel
theorem test_xtos_rounds_to_even : answer (exec (.xtos 0x01000001) State.reset) = value 0x43800000 := by decide +kernel
theorem test_xtos_of_max : answer (exec (.xtos 0x7FFFFFFF) State.reset) = value 0x47000000 := by decide +kernel
theorem test_xtod_of_max : answer (exec (.xtod 0x7FFFFFFF) State.reset) = value 0x40DFFFFFFFC00000 := by decide +kernel
theorem test_xtod_of_minus_one : answer (exec (.xtod 0xFFFFFFFF) State.reset) = value 0xBEF0000000000000 := by
  decide +kernel
theorem test_floor_of_negative : answer (exec (.floor 0xFFFE8000) State.reset) = value 0xFFFE0000 := by decide +kernel
theorem test_ceil_wraps : answer (exec (.ceil 0x7FFF0001) State.reset) = value 0x80000000 := by decide +kernel
theorem test_ceil_of_negative : answer (exec (.ceil 0xFFFF8000) State.reset) = value 0 := by decide +kernel
theorem test_illegal_response :
    edgeAnswer 0xFF 0xFFFFFFFFFFFFFFFF 0xFFFFFFFF State.reset = some (0, false, true) := by decide +kernel

/-- A NaN under WRAP still answers, with V = 0 and ILL = 0 (R51, R112). -/
theorem test_stox_nan_wraps_answers :
    (answer (exec (.stox 0x7FC00000) State.reset)).map (·.2) = some (false, false) := by decide +kernel

/-! ### The candidate table (R111) -/

theorem test_table_starts : (List.range 3).map candidateEntry = [0, 1, 2] := by decide +kernel
theorem test_table_reaches_one :
    candidateEntry 102687 ≠ one ∧ candidateEntry 102688 = one ∧ candidateEntry 102943 = one := by decide +kernel
theorem test_table_vectors :
    candidateEntry 78847 = 0xEEE4 ∧ candidateEntry 73945 = 0xE758 ∧ candidateEntry 11322 = 0x2C02 ∧
      candidateEntry 91622 = 0xFC30 := by decide +kernel

/-! ### The handshake (section 2.9) -/

/-- Edge 2 of the trace: one command accepted while the response before it is delivered. -/
def tracedState : State :=
  { loadRequest ⟨0x03#8, 0, 0⟩ State.reset with
    q := [⟨0x80000000#64, false, false⟩], rsp := some ⟨0x80000000#64, false, false⟩ }

theorem test_accept_and_deliver :
    (match step tracedState with
      | .next t => some (t.q, t.taken, t.rsp)
      | _ => none) =
      some ([⟨0#64, false, true⟩], [⟨0x80000000#64, false, false⟩], some ⟨0#64, false, true⟩) := by decide +kernel

/-- Edge 0: reset empties Q although a command stands at the port. -/
theorem test_reset_edge :
    (match step { tracedState with rst := true } with
      | .next t => some (t.q, t.taken, t.rsp)
      | _ => none) = some ([], [], none) := by decide +kernel

/-- The assembler's operand forms (R46), against the encodings of programs P1 and P4. -/
theorem test_assembler_operands :
    readOperand ['0', 'x', '0', '0', '0', '1', '_', '8', '0', '0', '0'] = some (.hex 0x18000) ∧
    ((readOperand ['f', '3', '2', '(', '1', '.', '5', ')']).bind (assembleOperand 32)) = some (.word 0x3FC00000) ∧
    ((readOperand ['f', 'x', '(', '-', '0', '.', '5', ')']).bind (assembleOperand 32)) = some (.word 0xFFFF8000) ∧
    ((readOperand ['-', '5']).bind (assembleOperand 32)) = some (.word 0xFFFFFFFB) ∧
    readOperand ['%', '1', '2'] = some (.result 12) := by decide +kernel

/-- R11: zero is +0.0 in both formats, from -0.0 and from a negative decimal that rounds to zero. -/
theorem test_negative_zero_encodes_as_plus_zero :
    encodeDecimal .binary32 ⟨true, 0, 1⟩ = 0#64 ∧ encodeDecimal .binary64 ⟨true, 0, 1⟩ = 0#64 ∧
    encodeDecimal .binary32 ⟨true, 1, 60⟩ = 0#64 ∧ encodeDecimal .binary32 ⟨true, 15, 1⟩ = 0xBFC00000#64 := by
  decide +kernel

/-! ### Witnesses: states and operands that meet a statement's hypotheses together -/

theorem reset_lut_accepted : lutAccepted State.reset.cfg = true := by decide +kernel

theorem loaded_admissible (r : Request) : (loadRequest r State.reset).Admissible :=
  ⟨rfl, reset_lut_accepted, fun h => absurd h (by simp), .inr rfl⟩

/-- StepRunsTheDecodedCommand. -/
theorem witness_step_runs : ∃ (s : State) (i : Instr), s.Admissible ∧ s.rst = false ∧ s.reqValid = true ∧
    s.reqReady = true ∧ decode s.request = .ok i :=
  ⟨loadRequest ⟨0x10#8, 0x40000#64, 0⟩ State.reset, .sqrt 0x40000, loaded_admissible _, rfl, rfl, rfl, by decide +kernel⟩

/-- FetchWordIsRunByTheNextStep. -/
theorem witness_fetch_word : ∃ (s : State) (nbits w : Nat) (i : Instr), lutAccepted s.cfg = true ∧
    decodeTableWord nbits w = some i := ⟨State.reset, 8, 0x1C, .tan 0, reset_lut_accepted, by decide +kernel⟩

/-- ReservedCommandIsAnsweredIllegal. -/
theorem witness_reserved : ∃ (s : State) (e : ReservedCmd), s.Admissible ∧ s.rst = false ∧ s.reqValid = true ∧
    s.reqReady = true ∧ decode s.request = .error e :=
  ⟨loadRequest ⟨0x13#8, 7, 9⟩ State.reset, .modeOfUnary, loaded_admissible _, rfl, rfl, rfl, by decide +kernel⟩

/-- EncodingRoundTrips, second part, with bits the command ignores set. -/
theorem witness_decodes : ∃ (r : Request) (i : Instr), decode r = .ok i ∧ r.a.toNat ≥ 2 ^ 32 ∧ r.b ≠ 0 :=
  ⟨⟨0x38#8, 0xFFFFFFFF00018000, 5⟩, .floor 0x18000, by decide +kernel, by decide, by decide⟩

/-- IgnoredBitsHaveNoEffect: for a unary command, and for DTOX. -/
theorem witness_ignored_bits :
    (∃ (c : Cmd) (a a' : DWord) (b b' : Word), (c = 0x30#8 → a = a') ∧ a.extractLsb' 0 32 = a'.extractLsb' 0 32 ∧
      (c.toNat < 0x10 → b = b') ∧ a ≠ a' ∧ b ≠ b') ∧
    (∃ (c : Cmd) (a a' : DWord) (b b' : Word), c = 0x30#8 ∧ (c = 0x30#8 → a = a') ∧
      a.extractLsb' 0 32 = a'.extractLsb' 0 32 ∧ (c.toNat < 0x10 → b = b') ∧ b ≠ b') :=
  ⟨⟨0x10#8, 0x100000005, 0x5, 1, 2, by decide, by decide, by decide, by decide, by decide⟩,
    ⟨0x30#8, 5, 5, 1, 2, rfl, by decide, by decide, by decide, by decide⟩⟩

/-- RoundingFlagIsNotReadByOthers. -/
theorem witness_other_reader : ∃ (i : Instr) (a b : Word), i = .addS a b := ⟨.addS 1 2, 1, 2, rfl⟩

/-- ResetEdgeEmptiesTheQueue, with something in flight. -/
theorem witness_reset_edge : ∃ s : State, s.Admissible ∧ s.rst = true ∧ s.q ≠ [] :=
  ⟨{ tracedState with rst := true }, ⟨rfl, reset_lut_accepted, fun _ => rfl, .inl rfl⟩, rfl, by decide⟩

/-- UntakenResponseIsHeldStable. -/
theorem witness_untaken : ∃ (s t : State) (r : Response), s.rsp = some r ∧ s.rspReady = false ∧ s.rst = false ∧
    step s = .next t := by
  let s : State := { tracedState with rspReady := false }
  have ha : s.Admissible := ⟨rfl, reset_lut_accepted, fun _ => rfl, .inr rfl⟩
  obtain ⟨t, ht⟩ := step_of_admissible_next ha
  exact ⟨s, t, _, rfl, rfl, rfl, ht⟩

/-- BrokenHoldHasNoMove: a request withdrawn, and a request changed. -/
theorem witness_broken_hold :
    (∃ (s : State) (r : Request), s.strapHeld = true ∧ lutAccepted s.cfg = true ∧
      (s.rspRead = true → s.rsp.isSome = true) ∧ s.rst = false ∧ s.held = some r ∧ s.reqValid = false) ∧
    (∃ (s : State) (r : Request), s.strapHeld = true ∧ lutAccepted s.cfg = true ∧
      (s.rspRead = true → s.rsp.isSome = true) ∧ s.rst = false ∧ s.held = some r ∧ s.reqValid = true ∧ s.request ≠ r) :=
  ⟨⟨{ State.reset with held := some ⟨0, 0, 0⟩ }, _, rfl, reset_lut_accepted, fun h => absurd h (by decide), rfl, rfl, rfl⟩,
    ⟨{ State.reset with held := some ⟨1, 0, 0⟩, reqValid := true }, _, rfl, reset_lut_accepted,
      fun h => absurd h (by decide), rfl, rfl, rfl, by decide⟩⟩

/-- ReadWithoutResponseFaults. -/
theorem witness_early_read : ∃ s : State, s.strapHeld = true ∧ lutAccepted s.cfg = true ∧ s.rspRead = true ∧
    s.rsp = none := ⟨{ State.reset with rspRead := true }, rfl, reset_lut_accepted, rfl, rfl⟩

/-- ConfigurationIsConstant: a changed pin; a table that breaks each constraint; a step that answers. -/
theorem witness_changed_configuration : ∃ (s : State) (p : Policy), s.strap = some p ∧ p ≠ s.cfg.policy :=
  ⟨{ State.reset with strap := some { Policy.standard with noRounding := true } }, _, rfl, by decide⟩

theorem witness_rejected_table (i : Nat) (_ : i = 78847 ∨ i = 73945) : ∃ s : State, s.strapHeld = true ∧
    lutRead s.cfg.sinLut i = 0#32 := by
  refine ⟨{ State.reset with cfg := { State.reset.cfg with sinLut := [(i, 0#32)] } }, rfl, ?_⟩
  rw [lutRead_cons, if_pos rfl]

theorem witness_rejected_quotient : ∃ s : State, s.strapHeld = true ∧
    ∀ u : State, u.cfg.policy = { s.cfg.policy with noRounding := false } →
      ¬ AnswersWith (.divS (lutRead s.cfg.sinLut 11322) (lutRead s.cfg.sinLut 91622)) u ⟨0x00002CAC#64, false, false⟩ := by
  refine ⟨{ State.reset with cfg := { State.reset.cfg with sinLut := [(11322, 0#32)] } }, rfl, fun u hu h => ?_⟩
  have e := answersWith_unique h (answers_divS _ _ u)
  rw [hu] at e
  exact absurd e (by decide +kernel)

theorem witness_step_answers : ∃ s t : State, s.Inv ∧ step s = .next t := by
  have ha : State.reset.Admissible := ⟨rfl, reset_lut_accepted, fun h => absurd h (by decide), .inr rfl⟩
  obtain ⟨t, ht⟩ := step_of_admissible_next ha
  exact ⟨State.reset, t, ⟨rfl, (fun _ h => nomatch h), by decide, fun _ => .inl (by decide), fun _ h => nomatch h⟩, ht⟩

/-- HostWaitsForTheResponseItNames: in either operand, and with a request waiting. -/
theorem witness_waiting_host :
    (∃ (s : State) (e : Edge) (rest : List Edge) (c : HostCommand) (k : Nat),
      s.agenda = e :: rest ∧ e.req = some c ∧ c.a = .result k ∧ s.taken.length < k) ∧
    (∃ (s : State) (e : Edge) (rest : List Edge) (c : HostCommand) (k : Nat),
      s.agenda = e :: rest ∧ e.req = some c ∧ c.b = .result k ∧ s.taken.length < k) ∧
    (∃ (s : State) (e : Edge) (rest : List Edge) (c : HostCommand) (r : Request),
      s.agenda = e :: rest ∧ e.req = some c ∧ c.a = .result 1 ∧ s.taken.length < 1 ∧ s.held = some r) :=
  ⟨⟨{ State.reset with agenda := [{ req := some ⟨0, .result 1, .word 0⟩ }] }, _, [], _, 1, rfl, rfl, rfl, by decide⟩,
    ⟨{ State.reset with agenda := [{ req := some ⟨0, .word 0, .result 1⟩ }] }, _, [], _, 1, rfl, rfl, rfl, by decide⟩,
    ⟨{ State.reset with agenda := [{ req := some ⟨0, .result 1, .word 0⟩ }], held := some ⟨4, 5, 6⟩ }, _, [], _, _,
      rfl, rfl, rfl, by decide, rfl⟩⟩

theorem traced_inv : tracedState.Inv :=
  ⟨rfl, fun r h => by injection h with h; subst h; rfl, by decide, fun _ => .inr ⟨rfl, rfl⟩,
    fun r h => by simp [tracedState, State.reset] at h; subst h; intro h; cases h⟩

/-- EveryRunAnswersInAcceptanceOrder: two edges, the first accepting a command. -/
theorem witness_run : ∃ (n : Nat) (s t : State), 1 ≤ n ∧ s.Inv ∧ noResetIn n s = true ∧
    Sys2Proof.core.run n s = .next t ∧ acceptedIn n s ≠ [] := by
  have ha : tracedState.Admissible := ⟨rfl, reset_lut_accepted, fun _ => rfl, .inr rfl⟩
  obtain ⟨t, ht⟩ := step_of_admissible_next ha
  refine ⟨1, tracedState, t, le_refl _, traced_inv, ?_, ?_, ?_⟩
  · simp [noResetIn, ht]; rfl
  · change (match step tracedState with | .next s' => Host.Outcome.next s' | .fault r => .fault r | .refused r => .refused r) = _
    rw [ht]
    rfl
  · simp only [acceptedIn]; intro h; simp [tracedState, State.accepts] at h

/-- EveryRunAnswersInAcceptanceOrder: a request of either kind. -/
theorem witness_run_requests : (∃ (r : Request) (i : Instr), decode r = .ok i) ∧
    (∃ (r : Request) (e : ReservedCmd), decode r = .error e) := 
  ⟨⟨⟨0, 0, 0⟩, .addW 0 0, by decide +kernel⟩, ⟨⟨3, 0, 0⟩, .modeOfBinary, by decide +kernel⟩⟩

/-- IdleRunDrainsTheQueue, with something in flight. -/
theorem witness_idle : ∃ s : State, s.Inv ∧ s.Admissible ∧ s.rst = false ∧ s.reqValid = false ∧ s.agenda = [] ∧
    s.q ≠ [] :=
  ⟨{ tracedState with reqValid := false },
    ⟨rfl, traced_inv.oldest, by decide, fun _ => .inr ⟨rfl, rfl⟩, traced_inv.legal⟩,
    ⟨rfl, reset_lut_accepted, fun _ => rfl, .inr rfl⟩, rfl, rfl, rfl, by decide⟩

/-- RunEndsInTheCleanState: a run is over although an edge without a command is still planned. -/
theorem witness_run_over : ∃ s : State, s.Inv ∧ s.RunOver ∧ s.rst = false ∧ s.agenda ≠ [] :=
  ⟨{ State.reset with agenda := [{ rspReady := false }] },
    ⟨rfl, (fun _ h => nomatch h), by decide, fun _ => .inl (by decide), fun _ h => nomatch h⟩,
    ⟨by decide, rfl, rfl, rfl⟩, rfl, by decide⟩

/-- A planned command, or one that waits, keeps the run going. -/
theorem test_run_not_over :
    ¬ { State.reset with agenda := [{}, { req := some ⟨0, .word 0, .word 0⟩ }] }.RunOver ∧
    ¬ { State.reset with held := some ⟨0, 0, 0⟩ }.RunOver :=
  ⟨fun h => absurd h.1 (by decide), fun h => absurd h.2.2.1 (by decide)⟩

/-- Every statement under a policy field: each value of each field is some state's. -/
theorem witness_policies :
    (∃ s : State, s.cfg.policy.ovfValue = .wrapped ∧ s.cfg.policy.satDetect = .flag ∧ s.cfg.policy.floatOor = .wrap ∧
      s.cfg.policy.noRounding = false) ∧
    (∃ s : State, s.cfg.policy.ovfValue = .sentinel) ∧ (∃ s : State, s.cfg.policy.satDetect = .sentinel) ∧
    (∃ s : State, s.cfg.policy.floatOor = .saturate) ∧ (∃ s : State, s.cfg.policy.noRounding = true) :=
  ⟨⟨State.reset, rfl, rfl, rfl, rfl⟩, ⟨sentinelValue, rfl⟩, ⟨sentinelDetect, rfl⟩, ⟨saturatingFloat, rfl⟩,
    ⟨truncating, rfl⟩⟩

/-- RoundingCarryWindow: both ends of the window are products or lie within it, and the three single products. -/
theorem witness_window :
    (∃ a b : Word, 2 ^ 47 - 2 ^ 15 ≤ a.toInt * b.toInt ∧ a.toInt * b.toInt ≤ 2 ^ 47 - 1) ∧
    (∃ a b : Word, a.toInt * b.toInt = 2 ^ 47 - 2 ^ 15) ∧ (∃ a b : Word, a.toInt * b.toInt = 2 ^ 47 - 1) ∧
    (∃ a b : Word, a.toInt * b.toInt = 2 ^ 47 - 2 ^ 15 - 1) ∧
    (∃ a b : Word, a.toInt * b.toInt = -2 ^ 47) ∧ (∃ a b : Word, a.toInt * b.toInt < -2 ^ 47) :=
  ⟨⟨0x00A1E58F, 0x00CA6691, by decide, by decide⟩, ⟨0x7FFF8000, 0x00010001, by decide⟩,
    ⟨0x00A1E58F, 0x00CA6691, by decide⟩, ⟨68066497, 2067647, by decide⟩, ⟨0x80000000, 0x00010000, by decide⟩,
    ⟨0x80000000, 0x00010001, by decide⟩⟩

/-- The statements with b not 0, a not MIN, a divisor whose seed is skipped, and one whose seed runs. -/
theorem witness_operands :
    (∃ b : Word, b ≠ 0#32 ∧ b.toInt.natAbs < 2 ^ 20) ∧ (∃ b : Word, b ≠ 0#32 ∧ ¬ b.toInt.natAbs < 2 ^ 20) ∧
    (∃ a : Word, a ≠ 0x80000000#32 ∧ a ≠ 0#32) := by
  exact ⟨⟨1, by decide, by decide⟩, ⟨0x00174326, by decide, by decide⟩, ⟨1, by decide, by decide⟩⟩

/-- The division bound at its edge: the greatest seedless divisor magnitude and the next. -/
theorem witness_seed_edge : (0x000FFFFF#32).toInt.natAbs < 2 ^ 20 ∧ ¬ (0x00100000#32).toInt.natAbs < 2 ^ 20 := by decide

/-- SineIsBoundedAndPeriodic: the candidate table is within [0, ONE], and an angle within a period of MAX. -/
theorem witness_table_range : ∃ s : State,
    ∀ i, i < 102944 → 0 ≤ (lutRead s.cfg.sinLut i).toInt ∧ (lutRead s.cfg.sinLut i).toInt ≤ 65536 :=
  ⟨State.reset, fun i _ => candidateEntry_range i⟩

theorem witness_period : ∃ x : Word, x.toInt + 411774 = 2 ^ 31 - 1 := ⟨0x7FF9B781, by decide⟩

/-- SineIsOdd: the candidate table. -/
theorem witness_odd_table : ∃ (s : State) (x : Word), lutRead s.cfg.sinLut 0 = 0#32 ∧
    lutRead s.cfg.sinLut 102943 = 0x00010000#32 ∧ x ≠ 0x80000000#32 :=
  ⟨State.reset, 1, by decide +kernel, by decide +kernel, by decide⟩

/-- Binary32ToFixedClosedForm, Binary64ToFixedClosedForm, NonFiniteFloatsConvert: at the boundary exponents. -/
theorem witness_exponents :
    exponent32 0x77000000 = 238 ∧ exponent32 0x77800000 = 239 ∧ (exponent32 0x7FC00000 = 255 ∧ fraction32 0x7FC00000 ≠ 0) ∧
    exponent64 0x7EE0000000000000 = 2030 ∧ exponent64 0x7EF0000000000000 = 2031 ∧
    (exponent64 0x7FF8000000000000 = 2047 ∧ fraction64 0x7FF8000000000000 ≠ 0) := by decide +kernel

/-- FixedToBinary32RoundsToEven and Binary32RoundTrip: magnitudes at the edges of their clauses. -/
theorem witness_magnitudes :
    (0x00FFFFFF#32).toInt.natAbs < 2 ^ 24 ∧ 2 ^ 24 ≤ (0x01000000#32).toInt.natAbs ∧
    (0xFF800001#32).toInt.natAbs < 2 ^ 23 ∧ ¬ (0xFF800000#32).toInt.natAbs < 2 ^ 23 ∧
    (0xFF000001#32).toInt.natAbs < 2 ^ 24 := by decide

/-- IntegerToFixedShifts and IntegerRoundTrip: both ends of the exact range. -/
theorem witness_integers : ∃ n m : Word, n.toInt = -32768 ∧ m.toInt = 32767 := ⟨0xFFFF8000, 0x7FFF, by decide, by decide⟩

/-- FloorAndCeilLaws: with and without a fraction, and at the edge of CEIL's order clause. -/
theorem witness_fractions :
    (0x00010000#32).toNat % 65536 = 0 ∧ (0x00018000#32).toNat % 65536 ≠ 0 ∧ (0x7FFF0000#32).toInt = 0x7FFF0000 := by
  decide

/-- ResetTableIsTheRoundedSine: the state after reset, and one under another policy. -/
theorem witness_candidate_table : ∃ s t : State, s.cfg.sinLut = [] ∧ t.cfg.sinLut = [] ∧ s.cfg.policy ≠ t.cfg.policy :=
  ⟨State.reset, sentinelDetect, rfl, rfl, by decide⟩

/-- The table statement's bound: the last index. -/
theorem witness_last_index : ∃ i : Nat, i < 102944 ∧ ¬ i + 1 < 102944 := ⟨102943, by decide⟩

end Sys2Proof.Tests
end

/-! ### 00_scope.md: what a response depends on (R2, R30) -/

section

namespace Sys2Proof.Machine

/-- The response to each command, from the four policy fields and SIN_LUT alone: of all the state, the only two values
that R2 and R30 let a response depend on. `answersWith_responseOf` ties it to `exec`. -/
def responseOf (p : Policy) (lut : SinLut) : Instr → Response
  | .addW a b => modeW (addCore a b)
  | .addC a b => modeC p (addCore a b)
  | .addS a b => modeS p (clampBySign a) (addCore a b)
  | .subW a b => modeW (subCore a b)
  | .subC a b => modeC p (subCore a b)
  | .subS a b => modeS p (clampBySign a) (subCore a b)
  | .mulW a b => modeW (mulCore p.noRounding a b)
  | .mulC a b => modeC p (mulCore p.noRounding a b)
  | .mulS a b => modeS p (clampByAgreement a b) (mulCore p.noRounding a b)
  | .divW a b => modeW (divCore p.noRounding a b)
  | .divC a b => modeC p (divCore p.noRounding a b)
  | .divS a b => divSResponse p a b
  | .sqrt a => wordResponse (sqrtResult p.noRounding a)
  | .sin x => wordResponse (sinCore lut x)
  | .cos x => wordResponse (cosCore lut x)
  | .tan x => divSResponse p (sinCore lut x) (cosCore lut x)
  | .itox n => wordResponse (toWord (fixedOperand n * 65536))
  | .xtoi a => wordResponse (toWord (toInteger p.noRounding (fixedOperand a)))
  | .stox x => wordResponse (fromFloat p .binary32 (zext64 x))
  | .xtos a => dwordResponse (toBinary32 a)
  | .dtox x => wordResponse (fromFloat p .binary64 x)
  | .xtod a => dwordResponse (toBinary64 a)
  | .floor a => wordResponse (floorResult a)
  | .ceil a => wordResponse (ceilResult a)

/-- Every command, from every state, appends `responseOf` of the elaborated policy and table, and changes nothing
else. -/
theorem answersWith_responseOf (i : Instr) (s : State) :
    AnswersWith i s (responseOf s.cfg.policy s.cfg.sinLut i) := by
  cases i with
  | addW a b => exact answers_addW a b s
  | addC a b => exact answers_addC a b s
  | addS a b => exact answers_addS a b s
  | subW a b => exact answers_subW a b s
  | subC a b => exact answers_subC a b s
  | subS a b => exact answers_subS a b s
  | mulW a b => exact answers_mulW a b s
  | mulC a b => exact answers_mulC a b s
  | mulS a b => exact answers_mulS a b s
  | divW a b => exact answers_divW a b s
  | divC a b => exact answers_divC a b s
  | divS a b => exact answers_divS a b s
  | sqrt a => exact answers_sqrt a s
  | sin x => exact answers_sin x s
  | cos x => exact answers_cos x s
  | tan x => exact answers_tan x s
  | itox n => exact answers_itox n s
  | xtoi a => exact answers_xtoi a s
  | stox x => exact answers_stox x s
  | xtos a => exact answers_xtos a s
  | dtox x => exact answers_dtox x s
  | xtod a => exact answers_xtod a s
  | floor a => exact answers_floor a s
  | ceil a => exact answers_ceil a s

/-- Settles O11: the one function is `responseOf`. LATENCY, DEPTH and the wrapper fields are no arguments of it; the
free value of R51 is among its results, through `fromFloat` (log 3). -/
theorem responseDependsOnCommandAndConfigOnly : Obligations.ResponseDependsOnCommandAndConfigOnly :=
  ⟨responseOf, answersWith_responseOf⟩

end Sys2Proof.Machine

end

/-! ### 10_state.md: the clock edge, the invariant, and the order of the responses -/

section

namespace Sys2Proof.Machine

/-! #### What the command accepted at an edge is answered -/

/-- The response to a request under a configuration: its command's, or the illegal-command response (R113).
`step_next_of_no_reset` ties it to the step. -/
def answerTo (c : Config) (r : Request) : Response :=
  match decode r with
  | .ok i => responseOf c.policy c.sinLut i
  | .error _ => illegalResponse

theorem answerTo_of_ok {r : Request} {i : Instr} (h : decode r = .ok i) (c : Config) :
    answerTo c r = responseOf c.policy c.sinLut i := by
  simp [answerTo, h]

theorem answerTo_of_error {r : Request} {e : ReservedCmd} (h : decode r = .error e) (c : Config) :
    answerTo c r = illegalResponse := by
  simp [answerTo, h]

theorem answersWith_answerTo {r : Request} {i : Instr} (h : decode r = .ok i) (s : State) :
    AnswersWith i s (answerTo s.cfg r) := by
  rw [answerTo_of_ok h]
  exact answersWith_responseOf i s

/-- The responses that join Q at this edge: that of the accepted request, if one is accepted. -/
def answersAt (s : State) : List Response :=
  if s.accepts then [answerTo s.cfg s.request] else []

/-- A step with rst = 0 that answers a next state is acceptance and then what every edge does. -/
theorem step_next_of_no_reset {s t : State} (hr : s.rst = false) (h : step s = .next t) :
    t = finishEdge { s with q := s.q ++ answersAt s } := by
  obtain ⟨-, -, -, ⟨hr', -⟩ | ⟨-, -, ha, rfl⟩ | ⟨-, -, ha, r, rfl, hans⟩⟩ := step_next_cases h
  · simp [hr] at hr'
  · simp [answersAt, ha]
  · obtain ⟨i, hd, hi⟩ | ⟨e, hd, rfl⟩ := hans
    · simp [answersAt, ha, answersWith_unique hi (answersWith_answerTo hd s)]
    · simp [answersAt, ha, answerTo_of_error hd]

theorem step_next_of_reset {s t : State} (hr : s.rst = true) (h : step s = .next t) : t = present (resetEdge s) := by
  obtain ⟨-, -, -, ⟨-, rfl⟩ | ⟨hr', -⟩ | ⟨hr', -⟩⟩ := step_next_cases h
  · rfl
  · simp [hr] at hr'
  · simp [hr] at hr'

theorem step_keeps_cfg {s t : State} (h : step s = .next t) : t.cfg = s.cfg := by
  obtain ⟨-, -, -, ⟨-, rfl⟩ | ⟨-, -, -, rfl⟩ | ⟨-, -, -, r, rfl, -⟩⟩ := step_next_cases h <;> simp

/-! #### Responses R114 allows -/

/-- No command is answered as illegal. -/
@[simp] theorem responseOf_ill (p : Policy) (lut : SinLut) (i : Instr) : (responseOf p lut i).ill = false := by
  cases i <;> rfl

theorem answerTo_legal (c : Config) (r : Request) : (answerTo c r).Legal := by
  intro hill
  cases h : decode r with
  | ok i => simp [answerTo_of_ok h] at hill
  | error e => simp [answerTo_of_error h, illegalResponse]

theorem answersAt_legal (s : State) : ∀ r ∈ answersAt s, r.Legal := by
  intro r hr
  obtain ⟨-, rfl⟩ : s.accepts = true ∧ r = answerTo s.cfg s.request := by simpa [answersAt] using hr
  exact answerTo_legal _ _

/-! #### The invariant inside an edge -/

/-- The part of `State.Inv` that every operation of an edge keeps, its bounds on Q apart: those hold again only once the
edge has delivered (the length of Q) and set the pins (req_ready). -/
structure State.InvInEdge (s : State) : Prop where
  config : s.cfg.wellFormed = true
  oldest : ∀ r, s.rsp = some r → s.q.head? = some r
  legal  : ∀ r ∈ s.taken ++ s.q, r.Legal

theorem State.Inv.inEdge {s : State} (h : s.Inv) : s.InvInEdge := ⟨h.config, h.oldest, h.legal⟩

theorem append_keeps_invInEdge {s : State} (h : s.InvInEdge) {rs : List Response} (hrs : ∀ r ∈ rs, r.Legal) :
    State.InvInEdge { s with q := s.q ++ rs } where
  config := h.config
  oldest r hr := by simp [h.oldest r hr]
  legal r hr := by
    obtain hr | hr : r ∈ s.taken ++ s.q ∨ r ∈ rs := by simpa [or_assoc] using hr
    · exact h.legal r hr
    · exact hrs r hr

theorem noteHeld_keeps_invInEdge {s : State} (h : s.InvInEdge) : (noteHeld s).InvInEdge :=
  ⟨h.config, h.oldest, h.legal⟩

theorem deliver_keeps_invInEdge {s : State} (h : s.InvInEdge) : (deliver s).InvInEdge where
  config := by simpa using h.config
  oldest := by
    obtain ⟨he, -⟩ | ⟨r, -, -, he⟩ := deliver_cases s
    · rw [he]; exact h.oldest
    · simp [he]
  legal := by rw [deliver_keeps_order h.oldest]; exact h.legal

theorem resetEdge_keeps_invInEdge {s : State} (h : s.InvInEdge) : (resetEdge s).InvInEdge where
  config := h.config
  oldest := by simp
  legal r hr := h.legal r (List.mem_append_left _ (by simpa using hr))

/-- Setting the pins of the next edge makes the whole invariant hold again, if Q is within DEPTH. -/
theorem present_inv {s : State} (h : s.InvInEdge) (hd : s.q.length ≤ s.cfg.depth) : (present s).Inv := by
  obtain ⟨e, req, rest, he⟩ := present_cases s
  rw [he]
  exact ⟨h.config, responseAt_oldest h.oldest e.answer, hd, readyAt_room, h.legal⟩

theorem finishEdge_inv {s : State} (h : s.InvInEdge) (hd : (deliver s).q.length ≤ s.cfg.depth) :
    (finishEdge s).Inv :=
  present_inv (deliver_keeps_invInEdge (noteHeld_keeps_invInEdge h))
    (by simpa [(deliver_noteHeld s).1] using hd)

theorem deliver_length_le (s : State) : (deliver s).q.length ≤ s.q.length := by
  obtain ⟨he, -⟩ | ⟨r, -, -, he⟩ := deliver_cases s <;> simp [he]

/-- R25: a command is accepted only where Q has room for it, or makes room at the same edge. -/
theorem length_after_accept_deliver {s : State} (h : s.Inv) :
    (deliver { s with q := s.q ++ answersAt s }).q.length ≤ s.cfg.depth := by
  cases ha : s.accepts with
  | false => simpa [answersAt, ha] using (deliver_length_le s).trans h.depth
  | true =>
    obtain ⟨-, -, hready⟩ := (accepts_iff s).mp ha
    obtain hroom | ⟨hrsp, htake⟩ := h.room hready
    · exact (deliver_length_le _).trans (by simpa [answersAt, ha] using hroom)
    · obtain ⟨r, hr⟩ := Option.isSome_iff_exists.mp hrsp
      simpa [deliver, hr, htake, answersAt, ha] using h.depth

/-! #### The invariant, at reset and along a run -/

/-- Settles O20: after reset nothing is in flight, and the elaborated configuration is well formed. -/
theorem invariantHoldsAtReset : Obligations.InvariantHoldsAtReset where
  config := by decide
  oldest r hr := by cases hr
  depth := Nat.zero_le _
  room _ := .inl (by decide)
  legal r hr := by cases hr

/-- Settles O21: each operation of an edge keeps `State.InvInEdge`, delivery brings Q within DEPTH again, and the pins
of the next edge are set from there. -/
theorem everyStepKeepsTheInvariant : Obligations.EveryStepKeepsTheInvariant := by
  intro s t h hstep
  cases hr : s.rst with
  | true =>
    rw [step_next_of_reset hr hstep]
    exact present_inv (resetEdge_keeps_invInEdge h.inEdge) (Nat.zero_le _)
  | false =>
    rw [step_next_of_no_reset hr hstep]
    exact finishEdge_inv (append_keeps_invInEdge h.inEdge (answersAt_legal s)) (length_after_accept_deliver h)

/-- Over one step with rst = 0, the responses taken and in flight gain that of the accepted request, at the end. -/
theorem step_appends_answers {s t : State} (h : s.Inv) (hr : s.rst = false) (hstep : step s = .next t) :
    t.taken ++ t.q = s.taken ++ s.q ++ answersAt s := by
  have hin := append_keeps_invInEdge h.inEdge (answersAt_legal s)
  rw [step_next_of_no_reset hr hstep, finishEdge_taken, finishEdge_q, deliver_keeps_order hin.oldest,
    List.append_assoc]

theorem acceptedIn_succ_of_next (n : Nat) {s t : State} (h : step s = .next t) :
    acceptedIn (n + 1) s = (if s.accepts then [s.request] else []) ++ acceptedIn n t := by
  simp [acceptedIn, h]

theorem map_answerTo_acceptedIn_succ (n : Nat) {s t : State} (h : step s = .next t) :
    (acceptedIn (n + 1) s).map (answerTo s.cfg) = answersAt s ++ (acceptedIn n t).map (answerTo t.cfg) := by
  rw [acceptedIn_succ_of_next n h, step_keeps_cfg h, List.map_append]
  cases ha : s.accepts <;> simp [answersAt, ha]

theorem noResetIn_succ_of_next {n : Nat} {s t : State} (h : step s = .next t) :
    noResetIn (n + 1) s = true ↔ s.rst = false ∧ noResetIn n t = true := by
  simp [noResetIn, h]

/-- R24, R32: over a run without reset, the responses taken and in flight gain those of the accepted requests. -/
theorem run_appends_answers (n : Nat) {s t : State} (h : s.Inv) (hr : noResetIn n s = true)
    (hrun : Sys2Proof.core.run n s = .next t) :
    t.taken ++ t.q = s.taken ++ s.q ++ (acceptedIn n s).map (answerTo s.cfg) := by
  induction n generalizing s with
  | zero => cases hrun; simp [acceptedIn]
  | succ n ih =>
    obtain ⟨u, hstep, hrun⟩ := run_succ_next hrun
    obtain ⟨hrst, hr⟩ := (noResetIn_succ_of_next hstep).mp hr
    have hu : u.Inv := everyStepKeepsTheInvariant s u h hstep
    rw [ih hu hr hrun, step_appends_answers h hrst hstep, map_answerTo_acceptedIn_succ n hstep, List.append_assoc]

/-- Settles O22: the one function is `answerTo`, by induction on the number of edges. -/
theorem everyRunAnswersInAcceptanceOrder : Obligations.EveryRunAnswersInAcceptanceOrder :=
  ⟨answerTo, fun s _ _ h => answersWith_answerTo h s, fun c _ _ h => answerTo_of_error h c,
    fun n _ _ => run_appends_answers n⟩

/-! #### The single edge -/

theorem present_rsp_of_valid {s : State} {r : Response} (h : s.rsp = some r) : (present s).rsp = some r := by
  obtain ⟨e, req, rest, he⟩ := present_cases s
  rw [he]
  exact responseAt_of_valid h e.answer

theorem deliver_of_not_ready {s : State} (h : s.rspReady = false) : deliver s = s := by
  obtain ⟨he, -⟩ | ⟨r, -, hready, -⟩ := deliver_cases s
  · exact he
  · simp [h] at hready

/-- Settles O15: with rsp_ready = 0 nothing is delivered, and the pins of the next edge keep a valid response. -/
theorem untakenResponseIsHeldStable : Obligations.UntakenResponseIsHeldStable := by
  intro s t r hrsp hready hr hstep
  rw [step_next_of_no_reset hr hstep]
  constructor
  · rw [finishEdge, deliver_of_not_ready (by simpa using hready)]
    exact present_rsp_of_valid hrsp
  · rw [finishEdge_taken, deliver_of_not_ready (by exact hready)]

theorem acceptance_of_decode {s : State} {i : Instr} (ha : s.accepts = true) (hd : decode s.request = .ok i) :
    acceptance s = exec i s := by
  simp [acceptance, acceptCommand, ha, hd]

/-- Settles O7: exec never stops, and an admissible edge with rst = 0 goes on from what it answers. -/
theorem stepRunsTheDecodedCommand : Obligations.StepRunsTheDecodedCommand := by
  intro s i hadm hr hvalid hready hd
  have ha : s.accepts = true := (accepts_iff s).mpr ⟨hr, hvalid, hready⟩
  obtain ⟨r, hexec⟩ := exec_answers i s
  exact ⟨_, hexec, step_of_admissible hadm hr ((acceptance_of_decode ha hd).trans hexec)⟩

theorem loadRequest_admissible {s : State} (h : lutAccepted s.cfg = true) (r : Request) :
    (loadRequest r s).Admissible where
  strap := rfl
  table := h
  read := by simp
  holds := .inr (holdBroken_of_held_none rfl)

theorem decode_of_decodeTableWord {nbits w : Nat} {i : Instr} (h : decodeTableWord nbits w = some i) :
    decode (tableRequest nbits w) = .ok i := by
  unfold decodeTableWord at h
  cases hd : decode (tableRequest nbits w) with
  | ok j => simpa [hd] using h
  | error e => simp [hd] at h

/-- Settles O8: the edge after `withFetchWord` is admissible and accepts the word, so O7 speaks of it. -/
theorem fetchWordIsRunByTheNextStep : Obligations.FetchWordIsRunByTheNextStep := by
  intro s nbits w i hlut hd
  exact stepRunsTheDecodedCommand (s.withFetchWord nbits w) i (loadRequest_admissible hlut _) rfl rfl rfl
    (decode_of_decodeTableWord hd)

/-- Settles O14: every part is a field of the reset state. -/
theorem resetStateIsClean : Obligations.ResetStateIsClean :=
  ⟨⟨rfl, rfl, rfl, rfl⟩, rfl, rfl⟩

/-- Settles O17: the edge checks for a read without a response before reset and before the hold (log 19). -/
theorem readWithoutResponseFaults : Obligations.ReadWithoutResponseFaults := by
  intro s hstrap hlut hread hrsp
  simp [step_eq, clockEdge, hstrap, hlut, hread, hrsp]

end Sys2Proof.Machine

end

/-! ### 30_encoding.md: the decoder and the encoder -/

section

namespace Sys2Proof.Machine

/-! #### The fields of CMD, and the operand bits a command reads -/

/-- R38: the binary commands are those of FUNC 0x00 to 0x03, as a bound on CMD itself. -/
theorem funcOf_le_three_iff (c : Cmd) : funcOf c ≤ 0x03 ↔ c.toNat < 0x10 := by
  unfold funcOf; omega

theorem cmd_eq_of_fields (c : Cmd) : c = BitVec.ofNat 8 (4 * funcOf c + modeOf c) := by
  rw [funcOf, modeOf, Nat.div_add_mod, BitVec.ofNat_toNat, BitVec.setWidth_eq]

/-- R44, on the fields as the decoder reads them. -/
theorem legalCmd_iff (c : Cmd) : legalCmd c = true ↔
    (funcOf c ≤ 0x03 ∧ modeOf c ≠ 3) ∨ (0x04 ≤ funcOf c ∧ funcOf c ≤ 0x0F ∧ modeOf c = 0) := by
  have hfunc : (c.extractLsb' 2 6).toNat = funcOf c := by
    simp [funcOf, Nat.shiftRight_eq_div_pow]; omega
  have hmode : (c.extractLsb' 0 2).toNat = modeOf c := by simp [modeOf]
  simp only [legalCmd, legalFields, hfunc, ← BitVec.toNat_inj, hmode, BitVec.toNat_ofNat, ne_eq]
  by_cases hf : funcOf c ≤ 0x03
  · rw [if_pos hf, decide_eq_true_eq]; omega
  · by_cases hf' : funcOf c ≤ 0x0F
    · rw [if_neg hf, if_pos hf', decide_eq_true_eq]; omega
    · rw [if_neg hf, if_neg hf', Bool.false_eq_true, false_iff]; omega

theorem extractLsb'_low_eq_setWidth (a : DWord) : a.extractLsb' 0 32 = a.setWidth 32 :=
  (BitVec.setWidth_eq_extractLsb' (by decide)).symm

theorem and_lowMask_eq_zext64 (a : DWord) : a &&& 0xFFFFFFFF#64 = zext64 (a.setWidth 32) := by
  apply BitVec.eq_of_toNat_eq
  have hmask : a.toNat &&& 0xFFFFFFFF = a.toNat % 2 ^ 32 := Nat.and_two_pow_sub_one_eq_mod a.toNat 32
  simp [zext64, hmask]
  omega

/-- R41: the request with every bit that its command ignores set to zero. `decode_eq_ok_iff` ties it to the decoder. -/
def readBits (r : Request) : Request where
  cmd := r.cmd
  a := if r.cmd = 0x30#8 then r.a else zext64 (r.a.setWidth 32)
  b := if r.cmd.toNat < 0x10 then r.b else 0#32

theorem readBits_of_binary {r : Request} (h : r.cmd.toNat < 0x10) :
    readBits r = ⟨r.cmd, zext64 (r.a.setWidth 32), r.b⟩ := by
  have hdtox : r.cmd ≠ 0x30#8 := fun he => absurd h (by simp [he])
  simp [readBits, h, hdtox]

theorem readBits_of_unary {r : Request} (h : 0x10 ≤ r.cmd.toNat) (hdtox : r.cmd ≠ 0x30#8) :
    readBits r = unaryRequest r.cmd (r.a.setWidth 32) := by
  simp [readBits, unaryRequest, Nat.not_lt.mpr h, hdtox]

/-! #### What the decoder answers -/

/-- R38, R39: every FUNC up to 0x03 has a command under each MODE but 0b11. -/
theorem decodeBinary_ok {func mode : Nat} (hf : func ≤ 0x03) (hm : mode < 3) (a b : Word) :
    ∃ i, decodeBinary func mode a b = .ok i := by
  interval_cases func <;> interval_cases mode <;> exact ⟨_, rfl⟩

/-- R38: every FUNC from 0x04 to 0x0F has a command. -/
theorem decodeUnary_ok {func : Nat} (hlow : 0x04 ≤ func) (hhigh : func ≤ 0x0F) (a : DWord) :
    ∃ i, decodeUnary func a = .ok i := by
  interval_cases func <;> exact ⟨_, rfl⟩

theorem encode_of_decodeBinary {func mode : Nat} {a b : Word} {i : Instr} (h : decodeBinary func mode a b = .ok i) :
    encode i = ⟨BitVec.ofNat 8 (4 * func + mode), zext64 a, b⟩ := by
  unfold decodeBinary at h
  split at h <;> cases h <;> rfl

theorem encode_of_decodeUnary {func : Nat} {a : DWord} {i : Instr} (h : decodeUnary func a = .ok i) :
    encode i = readBits ⟨BitVec.ofNat 8 (4 * func), a, 0#32⟩ := by
  unfold decodeUnary at h
  split at h <;> cases h <;> rfl

theorem decode_of_binary {cmd : Cmd} (hf : funcOf cmd ≤ 0x03) (hm : modeOf cmd ≠ 3) (a : DWord) (b : Word) :
    decode ⟨cmd, a, b⟩ = decodeBinary (funcOf cmd) (modeOf cmd) (a.setWidth 32) b := by
  simp [decode, hf, hm]

theorem decode_of_unary {cmd : Cmd} (hlow : 0x04 ≤ funcOf cmd) (hhigh : funcOf cmd ≤ 0x0F) (hm : modeOf cmd = 0)
    (a : DWord) (b : Word) : decode ⟨cmd, a, b⟩ = decodeUnary (funcOf cmd) a := by
  have hf : ¬ funcOf cmd ≤ 0x03 := by omega
  simp [decode, hf, hhigh, hm]

/-- Everything the decoder can do with a request, by the fields of its CMD (R44, R45). -/
theorem decode_cases (r : Request) :
    (legalCmd r.cmd = true ∧ ∃ i, decode r = .ok i ∧ encode i = readBits r) ∨
    (funcOf r.cmd ≤ 0x03 ∧ modeOf r.cmd = 3 ∧ decode r = .error .modeOfBinary) ∨
    (0x04 ≤ funcOf r.cmd ∧ funcOf r.cmd ≤ 0x0F ∧ modeOf r.cmd ≠ 0 ∧ decode r = .error .modeOfUnary) ∨
    (0x10 ≤ funcOf r.cmd ∧ decode r = .error .func) := by
  have hmode : modeOf r.cmd < 4 := Nat.mod_lt _ (by decide)
  have hcmd := cmd_eq_of_fields r.cmd
  by_cases hf : funcOf r.cmd ≤ 0x03
  · by_cases hm : modeOf r.cmd = 3
    · exact .inr (.inl ⟨hf, hm, by simp [decode, hf, hm]⟩)
    · obtain ⟨i, hi⟩ := decodeBinary_ok hf (by omega : modeOf r.cmd < 3) (r.a.setWidth 32) r.b
      have hlegal := (legalCmd_iff r.cmd).mpr (.inl ⟨hf, hm⟩)
      refine .inl ⟨hlegal, i, (decode_of_binary hf hm r.a r.b).trans hi, ?_⟩
      rw [encode_of_decodeBinary hi, ← hcmd, readBits_of_binary ((funcOf_le_three_iff _).mp hf)]
  · by_cases hf' : funcOf r.cmd ≤ 0x0F
    · by_cases hm : modeOf r.cmd = 0
      · have hlow : 0x04 ≤ funcOf r.cmd := by omega
        obtain ⟨i, hi⟩ := decodeUnary_ok hlow hf' r.a
        have hlegal := (legalCmd_iff r.cmd).mpr (.inr ⟨hlow, hf', hm⟩)
        refine .inl ⟨hlegal, i, (decode_of_unary hlow hf' hm r.a r.b).trans hi, ?_⟩
        rw [hm, Nat.add_zero] at hcmd
        rw [encode_of_decodeUnary hi, ← hcmd]
        simp [readBits, (funcOf_le_three_iff r.cmd).not.mp hf]
      · exact .inr (.inr (.inl ⟨by omega, hf', hm, by simp [decode, hf, hf', hm]⟩))
    · exact .inr (.inr (.inr ⟨by omega, by simp [decode, hf, hf']⟩))

/-- Settles O3: the cases of `decode_cases` exclude one another. -/
theorem reservedEncodingsAreNamed : Obligations.ReservedEncodingsAreNamed := by
  intro r
  have hfunc : r.cmd.toNat / 4 = funcOf r.cmd := rfl
  have hmode : r.cmd.toNat % 4 = modeOf r.cmd := rfl
  have hcmd : 0x40 ≤ r.cmd.toNat ↔ 0x10 ≤ funcOf r.cmd := by omega
  rw [hfunc, hmode, hcmd]
  obtain ⟨hlegal, i, hd, -⟩ | ⟨hf, hm, hd⟩ | ⟨hlow, hhigh, hm, hd⟩ | ⟨hf, hd⟩ := decode_cases r
  case inl => rw [legalCmd_iff] at hlegal; simp only [hd, reduceCtorEq, false_iff]; omega
  all_goals simp only [hd, Except.error.injEq, reduceCtorEq, true_iff, false_iff]; omega

/-! #### Decoding and encoding -/

theorem decode_binaryRequest {cmd : Cmd} (hf : funcOf cmd ≤ 0x03) (hm : modeOf cmd ≠ 3) (a b : Word) :
    decode ⟨cmd, zext64 a, b⟩ = decodeBinary (funcOf cmd) (modeOf cmd) a b :=
  (decode_of_binary hf hm _ b).trans (by simp)

/-- Here `h` is a computation: it says which command UNARY[FUNC] is. -/
theorem decode_unaryRequest {cmd : Cmd} {f : Word → Instr} {a : Word} (hlow : 0x04 ≤ funcOf cmd)
    (hhigh : funcOf cmd ≤ 0x0F) (hm : modeOf cmd = 0)
    (h : decodeUnary (funcOf cmd) (zext64 a) = .ok (f ((zext64 a).setWidth 32))) :
    decode (unaryRequest cmd a) = .ok (f a) :=
  (decode_of_unary hlow hhigh hm _ _).trans (by simpa using h)

/-- R41: DTOX reads all of A. -/
theorem decode_dtox (A : DWord) (B : Word) : decode ⟨0x30#8, A, B⟩ = .ok (.dtox A) :=
  decode_of_unary (by decide) (by decide) (by decide) A B

theorem decode_encode (i : Instr) : decode (encode i) = .ok i := by
  cases i with
  | addW a b | addC a b | addS a b | subW a b | subC a b | subS a b
  | mulW a b | mulC a b | mulS a b | divW a b | divC a b | divS a b =>
    exact decode_binaryRequest (by decide) (by decide) a b
  | sqrt a | sin a | cos a | tan a | itox a | xtoi a | stox a | xtos a | xtod a | floor a | ceil a =>
    exact decode_unaryRequest (by decide) (by decide) (by decide) rfl
  | dtox x => exact decode_dtox x 0#32

theorem encode_of_decode {r : Request} {i : Instr} (h : decode r = .ok i) : encode i = readBits r := by
  obtain ⟨-, j, hd, he⟩ | ⟨-, -, hd⟩ | ⟨-, -, -, hd⟩ | ⟨-, hd⟩ := decode_cases r
  · cases hd.symm.trans h; exact he
  all_goals cases hd.symm.trans h

/-- The decoder reads no bit of the request beyond those of `readBits`. -/
theorem decode_readBits (r : Request) : decode (readBits r) = decode r := by
  obtain ⟨hbin, hun, hfunc⟩ := reservedEncodingsAreNamed r
  obtain ⟨hbin', hun', hfunc'⟩ := reservedEncodingsAreNamed (readBits r)
  cases h : decode r with
  | ok i => rw [← encode_of_decode h, decode_encode]
  | error e =>
    cases e with
    | modeOfBinary => exact hbin'.mpr (hbin.mp h)
    | modeOfUnary => exact hun'.mpr (hun.mp h)
    | func => exact hfunc'.mpr (hfunc.mp h)

/-- A request decodes to a command exactly when the bits it reads are that command's encoding. -/
theorem decode_eq_ok_iff {r : Request} {i : Instr} : decode r = .ok i ↔ encode i = readBits r :=
  ⟨encode_of_decode, fun h => by rw [← decode_readBits, ← h, decode_encode]⟩

/-- Settles O4: `decode_encode`, and `encode_of_decode` field by field. -/
theorem encodingRoundTrips : Obligations.EncodingRoundTrips := by
  refine ⟨decode_encode, fun r i h => ?_⟩
  rw [encode_of_decode h, and_lowMask_eq_zext64]
  exact ⟨rfl, rfl, rfl⟩

/-- Settles O5: the two requests have the same `readBits`. -/
theorem ignoredBitsHaveNoEffect : Obligations.IgnoredBitsHaveNoEffect := by
  intro c a a' b b' hdtox hlow hbin
  rw [extractLsb'_low_eq_setWidth, extractLsb'_low_eq_setWidth] at hlow
  have hread : readBits ⟨c, a, b⟩ = readBits ⟨c, a', b'⟩ := by
    simp only [readBits, hlow]
    congr 1
    · exact ite_congr rfl hdtox fun _ => rfl
    · exact ite_congr rfl hbin fun _ => rfl
  rw [← decode_readBits, hread, decode_readBits]

/-! #### The opcode map (R40) -/

/-- R41, for a binary command: the word its encoding writes is the word it reads. -/
theorem binaryAt_of_encode {cmd : Cmd} {f : Word → Word → Instr} (hcmd : cmd.toNat < 0x10)
    (h : ∀ a b, encode (f a b) = ⟨cmd, zext64 a, b⟩) : BinaryAt cmd f := by
  intro A B
  rw [decode_eq_ok_iff, h, extractLsb'_low_eq_setWidth, readBits_of_binary hcmd]

/-- R41, for a unary command other than DTOX. -/
theorem unaryAt_of_encode {cmd : Cmd} {f : Word → Instr} (hcmd : 0x10 ≤ cmd.toNat) (hdtox : cmd ≠ 0x30#8)
    (h : ∀ a, encode (f a) = unaryRequest cmd a) : UnaryAt cmd f := by
  intro A B
  rw [decode_eq_ok_iff, h, extractLsb'_low_eq_setWidth, readBits_of_unary hcmd hdtox]

theorem decode_isOk_iff (r : Request) : (∃ i, decode r = .ok i) ↔ legalCmd r.cmd = true := by
  obtain ⟨hlegal, i, hd, -⟩ | ⟨hf, hm, hd⟩ | ⟨hlow, hhigh, hm, hd⟩ | ⟨hf, hd⟩ := decode_cases r
  · simp [hd, hlegal]
  all_goals simp only [hd, legalCmd_iff, reduceCtorEq, exists_false, false_iff]; omega

theorem decode_isError_iff (r : Request) : (∃ e, decode r = .error e) ↔ legalCmd r.cmd = false := by
  rw [← Bool.not_eq_true, ← decode_isOk_iff]
  cases decode r <;> simp

/-- R40: the legal values, listed. -/
theorem legalCmd_iff_mem (c : Cmd) : legalCmd c = true ↔
    c.toNat ∈ [0x00, 0x01, 0x02, 0x04, 0x05, 0x06, 0x08, 0x09, 0x0A, 0x0C, 0x0D, 0x0E,
      0x10, 0x14, 0x18, 0x1C, 0x20, 0x24, 0x28, 0x2C, 0x30, 0x34, 0x38, 0x3C] := by
  simp only [legalCmd_iff, funcOf, modeOf, List.mem_cons, List.not_mem_nil, or_false]
  omega

/-- Settles O2: each CMD byte is the one that the encoder writes, and the legal ones are those of 24 fields. -/
theorem exactlyTwentyFourCommandsAreLegal : Obligations.ExactlyTwentyFourCommandsAreLegal := by
  refine ⟨?binary, ?unary, fun r => ⟨?legal, ?reserved⟩⟩
  case binary =>
    refine ⟨?_, ?_, ?_, ?_, ?_, ?_, ?_, ?_, ?_, ?_, ?_, ?_⟩ <;> exact binaryAt_of_encode (by decide) fun _ _ => rfl
  case unary =>
    refine ⟨?_, ?_, ?_, ?_, ?_, ?_, ?_, ?_, decode_dtox, ?_, ?_, ?_⟩ <;>
      exact unaryAt_of_encode (by decide) (by decide) fun _ => rfl
  case legal => rw [decode_isOk_iff, legalCmd_iff_mem]
  case reserved => exact decode_isError_iff r

/-- Settles O1: seven rows of O2's map, written out. -/
theorem decoderReadsTheTableWords : Obligations.DecoderReadsTheTableWords := by
  obtain ⟨hbinary, hunary, -⟩ := exactlyTwentyFourCommandsAreLegal
  obtain ⟨-, hAddC, -, -, -, -, -, -, hMulS, hDivW, -, -⟩ := hbinary
  obtain ⟨hSqrt, -, -, hTan, -, -, -, -, hDtox, -, -, hCeil⟩ := hunary
  exact fun a b => ⟨hAddC a b, hMulS a b, hDivW a b, hSqrt a b, hTan a b, hDtox a b, hCeil a b⟩

/-- Settles O6: the table of mnemonics and aliases is looked up at each of the 18 pairs. -/
theorem aliasesEmitTheirCommands : Obligations.AliasesEmitTheirCommands := by
  unfold Obligations.AliasesEmitTheirCommands
  decide

end Sys2Proof.Machine

end

/-! ### 40_converter.md: fixed_point_converter -/

section

namespace Sys2Proof.Machine

/-! #### Integer conversions (R52, R53) -/

@[simp] theorem toWord_toInt (a : Word) : toWord a.toInt = a := BitVec.ofInt_toInt

theorem plain_toInt (a : Word) : plain a.toInt = ⟨a.setWidth 64, false, false⟩ := by
  rw [plain, toWord_toInt]

theorem toInt_toWord {v : Int} (hlow : -2 ^ 31 ≤ v) (hhigh : v < 2 ^ 31) : (toWord v).toInt = v :=
  BitVec.toInt_ofInt_eq_self (by decide) hlow hhigh

theorem natAbs_toInt_le (a : Word) : a.toInt.natAbs ≤ 2 ^ 31 := by
  have hlow := BitVec.le_toInt a
  have hhigh := BitVec.toInt_lt (x := a)
  omega

theorem toWord_mul_65536 (n : Word) : toWord (n.toInt * 65536) = n <<< 16 := by
  rw [toWord, BitVec.ofInt_mul, BitVec.ofInt_toInt, BitVec.shiftLeft_eq_mul_twoPow]
  rfl

/-- R53: the model's two signed divisions are the one rounding of R61. -/
theorem toInteger_eq_roundPolicy (noRounding : Bool) (a : Int) : toInteger noRounding a = roundPolicy noRounding a := by
  cases noRounding with
  | true => rfl
  | false =>
    by_cases ha : 0 ≤ a
    · simp [toInteger, roundPolicy, roundHalfAway, ha, Int.tdiv_eq_ediv_of_nonneg (by omega : 0 ≤ a + 32768)]
    · have hneg : (a - 32768).tdiv 65536 = -((-a + 32768) / 65536) := by
        rw [← Int.tdiv_eq_ediv_of_nonneg (by omega), ← Int.neg_tdiv]
        congr 1
        ring
      simp [toInteger, roundPolicy, roundHalfAway, ha, hneg]

theorem roundPolicy_range (noRounding : Bool) (a : Word) :
    -32768 ≤ roundPolicy noRounding a.toInt ∧ roundPolicy noRounding a.toInt ≤ 32768 := by
  have hlow := BitVec.le_toInt a
  have hhigh := BitVec.toInt_lt (x := a)
  simp only [roundPolicy, roundHalfAway]
  split_ifs <;> omega

theorem roundPolicy_mul_65536 (noRounding : Bool) (n : Int) : roundPolicy noRounding (n * 65536) = n := by
  simp only [roundPolicy, roundHalfAway]
  split_ifs <;> omega

theorem answersWith_xtoi (s : State) (a : Word) :
    AnswersWith (.xtoi a) s (plain (roundPolicy s.cfg.policy.noRounding a.toInt)) := by
  rw [← toInteger_eq_roundPolicy]
  exact answers_xtoi a s

/-- Settles O45: the product by 65536 is the shift, and stays in range for 16-bit n. -/
theorem integerToFixedShifts : Obligations.IntegerToFixedShifts := by
  refine ⟨unaryAt_of_encode (by decide) (by decide) fun _ => rfl, fun s n => ⟨answers_itox n s, toWord_mul_65536 n, ?_⟩⟩
  intro hlow hhigh
  exact toInt_toWord (by omega) (by omega)

/-- Settles O46: XTOI is the rounding policy of R61, and a word over 65536 lies in [-32768, 32768]. -/
theorem fixedToIntegerRounds : Obligations.FixedToIntegerRounds :=
  ⟨unaryAt_of_encode (by decide) (by decide) fun _ => rfl,
    fun s a => ⟨answersWith_xtoi s a, roundPolicy_range s.cfg.policy.noRounding a⟩⟩

/-- Settles O54: in range ITOX is exact, and a multiple of 65536 is rounded to itself. -/
theorem integerRoundTrip : Obligations.IntegerRoundTrip := by
  intro s n hlow hhigh
  have hexact : (toWord (n.toInt * 65536)).toInt = n.toInt * 65536 := toInt_toWord (by omega) (by omega)
  refine ⟨toWord (n.toInt * 65536), answers_itox n s, ?_⟩
  have hx := answersWith_xtoi s (toWord (n.toInt * 65536))
  rwa [hexact, roundPolicy_mul_65536, plain_toInt] at hx

/-! #### Binary lengths, and rounding to even (R11) -/

theorem bitLength_le_iff {m n : Nat} : bitLength m ≤ n ↔ m < 2 ^ n := by
  by_cases hm : m = 0
  · simp [bitLength, hm]
  · rw [bitLength, if_neg hm, Nat.succ_le_iff, Nat.log2_lt hm]

theorem lt_bitLength_iff {m n : Nat} : n < bitLength m ↔ 2 ^ n ≤ m := by
  rw [← not_le, bitLength_le_iff, not_lt]

theorem bitLength_eq_succ {m n : Nat} (hlow : 2 ^ n ≤ m) (hhigh : m < 2 ^ (n + 1)) : bitLength m = n + 1 :=
  le_antisymm (bitLength_le_iff.mpr hhigh) (lt_bitLength_iff.mpr hlow)

theorem bitLength_bounds {m n : Nat} (h : bitLength m = n + 1) : 2 ^ n ≤ m ∧ m < 2 ^ (n + 1) :=
  ⟨lt_bitLength_iff.mp (by omega), bitLength_le_iff.mp (by omega)⟩

theorem bitLength_pos {m : Nat} (hm : m ≠ 0) : 0 < bitLength m :=
  lt_bitLength_iff.mpr (Nat.pos_of_ne_zero hm)

theorem bitLength_mul_two_pow {m : Nat} (hm : m ≠ 0) (d : Nat) : bitLength (m * 2 ^ d) = bitLength m + d := by
  obtain ⟨n, hn⟩ := Nat.exists_eq_succ_of_ne_zero (bitLength_pos hm).ne'
  obtain ⟨hlow, hhigh⟩ := bitLength_bounds hn
  have hd : 0 < 2 ^ d := Nat.two_pow_pos d
  rw [hn, bitLength_eq_succ (n := n + d)]
  · omega
  · rw [pow_add]; exact Nat.mul_le_mul_right _ hlow
  · rw [show n + d + 1 = n + 1 + d by omega, pow_add]; exact Nat.mul_lt_mul_of_pos_right hhigh hd

/-- Rounding to even either drops the bits below 2^k or goes one up, to the nearer multiple of 2^k, and to the even
one in a tie. -/
theorem roundEven_cases (m k : Nat) :
    (roundEven m k = m / 2 ^ k ∧ 2 * (m % 2 ^ k) ≤ 2 ^ k ∧ (2 * (m % 2 ^ k) = 2 ^ k → m / 2 ^ k % 2 = 0)) ∨
    (roundEven m k = m / 2 ^ k + 1 ∧ 2 ^ k ≤ 2 * (m % 2 ^ k) ∧ (2 * (m % 2 ^ k) = 2 ^ k → m / 2 ^ k % 2 = 1)) := by
  simp only [roundEven, Bool.or_eq_true, Bool.and_eq_true, decide_eq_true_eq, beq_iff_eq]
  split_ifs with h
  · exact .inr ⟨rfl, by omega, by omega⟩
  · exact .inl ⟨rfl, by omega, by omega⟩

theorem roundEven_mul_two_pow (m k d : Nat) : roundEven (m * 2 ^ d) (k + d) = roundEven m k := by
  have hd : 0 < 2 ^ d := Nat.two_pow_pos d
  have hgt : 2 * (m % 2 ^ k * 2 ^ d) > 2 ^ k * 2 ^ d ↔ 2 * (m % 2 ^ k) > 2 ^ k := by
    rw [← mul_assoc]; exact Nat.mul_lt_mul_right hd
  have htie : 2 * (m % 2 ^ k * 2 ^ d) = 2 ^ k * 2 ^ d ↔ 2 * (m % 2 ^ k) = 2 ^ k := by
    rw [← mul_assoc]; exact Nat.mul_left_inj hd.ne'
  simp only [roundEven, pow_add, Nat.mul_div_mul_right _ _ hd, Nat.mul_mod_mul_right, Bool.or_eq_true,
    Bool.and_eq_true, decide_eq_true_eq, beq_iff_eq, hgt, htie]

@[simp] theorem roundEven_zero (m : Nat) : roundEven m 0 = m := by
  simp [roundEven, Nat.mod_one]

/-- A value with p + 1 bits above 2^k is rounded to p + 1 bits, or up to 2^(p+1). -/
theorem roundEven_bounds {m p k : Nat} (h : bitLength m = p + 1 + k) :
    2 ^ p ≤ roundEven m k ∧ roundEven m k ≤ 2 ^ (p + 1) := by
  obtain ⟨hlow, hhigh⟩ := bitLength_bounds (show bitLength m = p + k + 1 by omega)
  have hk : 0 < 2 ^ k := Nat.two_pow_pos k
  have h1 : 2 ^ p ≤ m / 2 ^ k := (Nat.le_div_iff_mul_le hk).mpr (by rwa [← pow_add])
  have h2 : m / 2 ^ k < 2 ^ (p + 1) :=
    (Nat.div_lt_iff_lt_mul hk).mpr (by rwa [← pow_add, show p + 1 + k = p + k + 1 by omega])
  obtain ⟨hr, -⟩ | ⟨hr, -⟩ := roundEven_cases m k <;> omega

/-! #### A value at a given last place -/

variable {f : FloatFormat} {neg : Bool} {m : Nat} {e : Int}

/-- The value m x 2^e in multiples of 2^u, where `r m k` says how m / 2^k is rounded. -/
def placeAt (r : Nat → Nat → Nat) (u : Int) (m : Nat) (e : Int) : Nat :=
  if u ≤ e then m * 2 ^ (e - u).toNat else r m (u - e).toNat

theorem placeAt_sub (r : Nat → Nat → Nat) (m d : Nat) (e : Int) : placeAt r (e - d) m e = m * 2 ^ d := by
  rw [placeAt, if_pos (by omega), sub_sub_cancel, Int.toNat_natCast]

theorem placeAt_add {r : Nat → Nat → Nat} (hzero : ∀ m, r m 0 = m) (m k : Nat) (e : Int) :
    placeAt r (e + k) m e = r m k := by
  rw [placeAt]
  split_ifs with hk
  · obtain rfl : k = 0 := by omega
    simp [hzero]
  · rw [add_sub_cancel_left, Int.toNat_natCast]

/-- A rounding that reads the quotient alone reads the value alone: a factor 2^d may stand in either part. -/
theorem placeAt_mul_two_pow {r : Nat → Nat → Nat} (hzero : ∀ m, r m 0 = m)
    (hquot : ∀ m k d, r (m * 2 ^ d) (k + d) = r m k) (u : Int) (m d : Nat) (e : Int) :
    placeAt r u (m * 2 ^ d) (e - d) = placeAt r u m e := by
  obtain hfar | hnear := lt_or_ge e u
  · obtain ⟨k, rfl⟩ : ∃ k : Nat, u = e + k := ⟨(u - e).toNat, by omega⟩
    rw [placeAt_add hzero, show e + (k : Int) = e - d + (k + d : Nat) by omega, placeAt_add hzero, hquot]
  · obtain ⟨j, rfl⟩ : ∃ j : Nat, u = e - j := ⟨(e - u).toNat, by omega⟩
    rw [placeAt_sub]
    obtain ⟨i, rfl⟩ | ⟨k, rfl⟩ : (∃ i, j = d + i) ∨ ∃ k, d = j + k :=
      (le_total d j).imp Nat.exists_eq_add_of_le Nat.exists_eq_add_of_le
    · rw [show e - ((d + i : Nat) : Int) = e - d - i by omega, placeAt_sub, mul_assoc, ← pow_add]
    · have hkeep := hquot (m * 2 ^ j) 0 k
      rw [zero_add, hzero] at hkeep
      rw [show e - (j : Int) = e - (j + k : Nat) + k by omega, placeAt_add hzero, pow_add, ← mul_assoc, hkeep]

/-! #### rne_F of values that the format holds exactly (R11) -/

/-- m x 2^e is a finite value of format F, written with a significand that fits. -/
structure Representable (f : FloatFormat) (m : Nat) (e : Int) : Prop where
  fits : m < 2 ^ (fracBits f + 1)
  low  : minExp f ≤ e
  high : e + bitLength m ≤ (bias f : Int) + 1

/-- How far format F shifts m to the left in writing m x 2^e. -/
def normalShift (f : FloatFormat) (m : Nat) (e : Int) : Nat := (e - quantum f m e).toNat

theorem Representable.bitLength_le (h : Representable f m e) : bitLength m ≤ fracBits f + 1 :=
  bitLength_le_iff.mpr h.fits

theorem Representable.quantum_eq (h : Representable f m e) : quantum f m e = e - normalShift f m e := by
  have hfits := h.bitLength_le
  have hlow := h.low
  simp only [normalShift, quantum]
  omega

/-- What the format does not shift away is where its last place stands. -/
theorem normalShift_eq (f : FloatFormat) (m : Nat) (e : Int) :
    normalShift f m e = min (fracBits f + 1 - bitLength m) (e - minExp f).toNat := by
  simp only [normalShift, quantum]
  omega

theorem quantum_mul_two_pow (hm : m ≠ 0) (d : Nat) : quantum f (m * 2 ^ d) (e - d) = quantum f m e := by
  simp only [quantum, bitLength_mul_two_pow hm]
  congr 1
  push_cast
  ring

/-- `rne_F` of a value that is not zero, by its significand in multiples of the last place. -/
theorem rne_of_ne_zero (f : FloatFormat) (neg : Bool) (hm : m ≠ 0) (e : Int) :
    rne f neg m e =
      if quantum f m e + bitLength (placeAt roundEven (quantum f m e) m e) > (bias f : Int) + 1 then .infinite neg
      else .finite neg (placeAt roundEven (quantum f m e) m e) (quantum f m e) := by
  rw [rne, if_neg hm]
  rfl

/-- `rne_F` reads the value alone. -/
theorem rne_mul_two_pow (f : FloatFormat) (neg : Bool) (m d : Nat) (e : Int) :
    rne f neg (m * 2 ^ d) (e - d) = rne f neg m e := by
  by_cases hm : m = 0
  · simp [rne, hm]
  · have hmd : m * 2 ^ d ≠ 0 := Nat.mul_ne_zero hm (Nat.two_pow_pos d).ne'
    rw [rne_of_ne_zero f neg hm, rne_of_ne_zero f neg hmd, quantum_mul_two_pow hm,
      placeAt_mul_two_pow roundEven_zero roundEven_mul_two_pow]

theorem rne_of_representable (hm : m ≠ 0) (h : Representable f m e) :
    rne f neg m e = .finite neg (m * 2 ^ normalShift f m e) (e - normalShift f m e) := by
  have hhigh := h.high
  rw [rne_of_ne_zero f neg hm, h.quantum_eq, placeAt_sub, if_neg]
  rw [bitLength_mul_two_pow hm]
  omega

/-- A value with k bits too many is rounded to even at 2^k. -/
theorem rne_of_long {k : Nat} (hlen : bitLength m = fracBits f + 1 + k) (hlow : minExp f ≤ e + k)
    (hhigh : e + k + bitLength (roundEven m k) ≤ (bias f : Int) + 1) :
    rne f neg m e = .finite neg (roundEven m k) (e + k) := by
  have hm : m ≠ 0 := by rintro rfl; simp [bitLength] at hlen; omega
  have hq : quantum f m e = e + k := by simp only [quantum]; omega
  rw [rne_of_ne_zero f neg hm, hq, placeAt_add roundEven_zero, if_neg (by omega)]

theorem rne_of_overflow (hlen : bitLength m = fracBits f + 1) (hlow : minExp f ≤ e)
    (hhigh : (bias f : Int) < e + fracBits f) : rne f neg m e = .infinite neg := by
  have hm : m ≠ 0 := by rintro rfl; simp [bitLength] at hlen
  have hq : quantum f m e = e + (0 : Nat) := by simp only [quantum]; omega
  rw [rne_of_ne_zero f neg hm, hq, placeAt_add roundEven_zero, roundEven_zero, if_pos (by omega)]

/-! #### Patterns and their fields (R11) -/

theorem two_pow_expBits (f : FloatFormat) : 2 ^ expBits f = 2 * bias f + 2 := by cases f <;> rfl

theorem minExp_eq (f : FloatFormat) : minExp f = 1 - bias f - fracBits f := rfl

/-- The fields of a pattern of format F, as `val_F` cuts it. -/
def fractionField (f : FloatFormat) (bits : BitVec 64) : Nat := bits.toNat % 2 ^ fracBits f
def exponentField (f : FloatFormat) (bits : BitVec 64) : Nat := bits.toNat / 2 ^ fracBits f % 2 ^ expBits f
def signField (f : FloatFormat) (bits : BitVec 64) : Bool := bits.toNat.testBit (fracBits f + expBits f)

/-- The pattern has these fields. -/
structure HasFields (f : FloatFormat) (bits : BitVec 64) (neg : Bool) (ex frac : Nat) : Prop where
  sign     : signField f bits = neg
  exponent : exponentField f bits = ex
  fraction : fractionField f bits = frac

/-- The significand of a finite value with `p` fraction bits, with the hidden bit of a normal one. -/
def significand (p ex frac : Nat) : Nat := if ex = 0 then frac else 2 ^ p + frac

theorem fractionField_lt (f : FloatFormat) (bits : BitVec 64) : fractionField f bits < 2 ^ fracBits f :=
  Nat.mod_lt _ (Nat.two_pow_pos _)

/-- `val_F` by the exponent field: all ones is an infinity or NaN, everything else is finite. -/
theorem valF_eq (f : FloatFormat) (bits : BitVec 64) :
    valF f bits =
      if exponentField f bits = 2 * bias f + 1 then
        if fractionField f bits = 0 then .infinite (signField f bits) else .nan
      else .finite (signField f bits) (significand (fracBits f) (exponentField f bits) (fractionField f bits))
        (minExp f + (max (exponentField f bits) 1 : Nat) - 1) := by
  have htop : 2 ^ expBits f - 1 = 2 * bias f + 1 := by rw [two_pow_expBits]; rfl
  have hval : valF f bits =
      if exponentField f bits = 2 ^ expBits f - 1 then
        if fractionField f bits = 0 then .infinite (signField f bits) else .nan
      else if exponentField f bits = 0 then .finite (signField f bits) (fractionField f bits) (minExp f)
      else .finite (signField f bits) (2 ^ fracBits f + fractionField f bits)
        (minExp f + exponentField f bits - 1) := rfl
  rw [hval, htop]
  by_cases hzero : exponentField f bits = 0
  · simp [hzero, significand]
  · have hmax : max (exponentField f bits) 1 = exponentField f bits := by omega
    simp only [hzero, significand, hmax, if_false]

/-- The fields of a pattern stand one above the other, within 64 bits. -/
theorem toNat_packF (f : FloatFormat) (neg : Bool) {ex frac : Nat} (hex : ex < 2 ^ expBits f)
    (hfrac : frac < 2 ^ fracBits f) :
    (packF f neg ex frac).toNat = (neg.toNat * 2 ^ expBits f + ex) * 2 ^ fracBits f + frac := by
  have hlt : (neg.toNat * 2 ^ expBits f + ex) * 2 ^ fracBits f + frac < 2 ^ 64 := by
    have hneg := neg.toNat_le
    cases f <;> simp only [fracBits, expBits] at * <;> omega
  have hsign : (if neg then 2 ^ (fracBits f + expBits f) else 0) = neg.toNat * 2 ^ expBits f * 2 ^ fracBits f := by
    cases neg <;> simp [pow_add, mul_comm]
  rw [packF, BitVec.toNat_ofNat, hsign, ← add_mul, Nat.mod_eq_of_lt hlt]

/-- Packing puts each field where `val_F` finds it. -/
theorem hasFields_packF (f : FloatFormat) (neg : Bool) {ex frac : Nat} (hex : ex < 2 ^ expBits f)
    (hfrac : frac < 2 ^ fracBits f) : HasFields f (packF f neg ex frac) neg ex frac := by
  have hbits := toNat_packF f neg hex hfrac
  have hhigh : (packF f neg ex frac).toNat / 2 ^ fracBits f = neg.toNat * 2 ^ expBits f + ex := by
    rw [hbits, mul_comm, Nat.mul_add_div (Nat.two_pow_pos _), Nat.div_eq_of_lt hfrac, Nat.add_zero]
  constructor
  case sign =>
    rw [signField, Nat.testBit_eq_decide_div_mod_eq, pow_add, ← Nat.div_div_eq_div_mul, hhigh, mul_comm,
      Nat.mul_add_div (Nat.two_pow_pos _), Nat.div_eq_of_lt hex]
    cases neg <;> rfl
  case exponent => rw [exponentField, hhigh, mul_comm, Nat.mul_add_mod, Nat.mod_eq_of_lt hex]
  case fraction => rw [fractionField, hbits, mul_comm, Nat.mul_add_mod, Nat.mod_eq_of_lt hfrac]

theorem valF_packF (neg : Bool) {ex frac : Nat} (hex : ex < 2 * bias f + 1) (hfrac : frac < 2 ^ fracBits f) :
    valF f (packF f neg ex frac) =
      .finite neg (significand (fracBits f) ex frac) (minExp f + (max ex 1 : Nat) - 1) := by
  have hfields := hasFields_packF f neg (show ex < 2 ^ expBits f by rw [two_pow_expBits]; omega) hfrac
  rw [valF_eq, hfields.exponent, hfields.fraction, hfields.sign, if_neg (by omega)]

/-- The value m x 2^e in multiples of 2^u, rounded down. -/
def floorAt : Int → Nat → Int → Nat := placeAt fun m k => m / 2 ^ k

theorem floorAt_mul_two_pow (u : Int) (m d : Nat) (e : Int) : floorAt u (m * 2 ^ d) (e - d) = floorAt u m e :=
  placeAt_mul_two_pow (by simp) (fun m k d => by rw [pow_add, Nat.mul_div_mul_right _ _ (Nat.two_pow_pos d)]) u m d e

/-- `bits_F` of a finite value that is not zero, by its significand in multiples of the last place. -/
theorem bitsF_finite (f : FloatFormat) (neg : Bool) (hm : m ≠ 0) (e : Int) :
    bitsF f (.finite neg m e) =
      if floorAt (quantum f m e) m e < 2 ^ fracBits f then packF f neg 0 (floorAt (quantum f m e) m e)
      else packF f neg (quantum f m e - minExp f + 1).toNat (floorAt (quantum f m e) m e - 2 ^ fracBits f) := by
  rw [bitsF, if_neg hm]
  rfl

/-- `bits_F` reads the value alone. -/
theorem bitsF_mul_two_pow (f : FloatFormat) (neg : Bool) (m d : Nat) (e : Int) :
    bitsF f (.finite neg (m * 2 ^ d) (e - d)) = bitsF f (.finite neg m e) := by
  by_cases hm : m = 0
  · simp [hm]
  · have hmd : m * 2 ^ d ≠ 0 := Nat.mul_ne_zero hm (Nat.two_pow_pos d).ne'
    rw [bitsF_finite f neg hm, bitsF_finite f neg hmd, quantum_mul_two_pow hm, floorAt_mul_two_pow]

/-- Of a value that the format holds, `bits_F` packs the fields of its normal form. -/
theorem exists_bitsF_eq_packF (neg : Bool) (hm : m ≠ 0) (h : Representable f m e) :
    ∃ ex frac : Nat, ex < 2 * bias f + 1 ∧ frac < 2 ^ fracBits f ∧ bitsF f (.finite neg m e) = packF f neg ex frac ∧
      significand (fracBits f) ex frac = m * 2 ^ normalShift f m e ∧
      minExp f + (max ex 1 : Nat) - 1 = e - normalShift f m e := by
  have hq := h.quantum_eq
  have hlow := h.low
  have hhigh := h.high
  have hfits := h.bitLength_le
  have hmin := minExp_eq f
  have hshift := normalShift_eq f m e
  have hlen := bitLength_mul_two_pow hm (normalShift f m e)
  rw [bitsF_finite f neg hm, hq, floorAt, placeAt_sub]
  generalize m * 2 ^ normalShift f m e = sig at *
  by_cases hsub : sig < 2 ^ fracBits f
  · have hshort := bitLength_le_iff.mpr hsub
    exact ⟨0, sig, by omega, hsub, if_pos hsub, if_pos rfl, by omega⟩
  · have hlong := lt_bitLength_iff.mpr (not_lt.mp hsub)
    have hlt : sig < 2 ^ (fracBits f + 1) := bitLength_le_iff.mp (by omega)
    refine ⟨(e - normalShift f m e - minExp f + 1).toNat, sig - 2 ^ fracBits f, by omega, by omega, if_neg hsub, ?_,
      by omega⟩
    rw [significand, if_neg (by omega)]
    omega

/-- Encoding a value that the format holds, and reading it back, gives that value in normal form. -/
theorem valF_bitsF (hm : m ≠ 0) (h : Representable f m e) :
    valF f (bitsF f (.finite neg m e)) = .finite neg (m * 2 ^ normalShift f m e) (e - normalShift f m e) := by
  obtain ⟨ex, frac, hex, hfrac, hbits, hsig, hexp⟩ := exists_bitsF_eq_packF neg hm h
  rw [hbits, valF_packF neg hex hfrac, hsig, hexp]

/-- A binary32 pattern stands in the low half of the word. -/
theorem toNat_bitsF_binary32_lt (neg : Bool) (hm : m ≠ 0) (h : Representable .binary32 m e) :
    (bitsF .binary32 (.finite neg m e)).toNat < 2 ^ 32 := by
  obtain ⟨ex, frac, hex, hfrac, hbits, -⟩ := exists_bitsF_eq_packF neg hm h
  have hexp : ex < 2 ^ expBits .binary32 := by rw [two_pow_expBits]; omega
  have hneg := neg.toNat_le
  rw [hbits, toNat_packF _ neg hexp hfrac]
  simp only [fracBits, expBits] at *
  omega

/-! #### Truncation, and the range rule (R51) -/

@[simp] theorem signed_zero (neg : Bool) : signed neg 0 = 0 := by cases neg <;> rfl

theorem signed_add (neg : Bool) (m n : Nat) : signed neg m + signed neg n = signed neg (m + n) := by
  cases neg <;> simp [signed]
  omega

@[simp] theorem natAbs_signed (neg : Bool) (m : Nat) : (signed neg m).natAbs = m := by
  cases neg <;> simp [signed]

theorem signed_lt_zero_iff (neg : Bool) (hm : m ≠ 0) : signed neg m < 0 ↔ neg = true := by
  cases neg <;> simp [signed]
  omega

theorem truncF_eq (neg : Bool) (m : Nat) (e : Int) : truncF neg m e = signed neg (floorAt 0 m e) := by
  simp [truncF, floorAt, placeAt]

/-- Truncation reads the value alone. -/
theorem truncF_mul_two_pow (neg : Bool) (m d : Nat) (e : Int) : truncF neg (m * 2 ^ d) (e - d) = truncF neg m e := by
  rw [truncF_eq, truncF_eq, floorAt_mul_two_pow]

theorem truncF_natCast (neg : Bool) (m k : Nat) : truncF neg m k = signed neg (m * 2 ^ k) := by
  simp [truncF]

theorem truncF_neg_natCast (neg : Bool) (m k : Nat) : truncF neg m (-(k : Int)) = signed neg (m / 2 ^ k) := by
  rw [truncF]
  split_ifs with hk
  · obtain rfl : k = 0 := by omega
    simp
  · simp

/-- `t` is finite, and its integer part is `n`. -/
def TruncatesTo (t : FloatVal) (n : Int) : Prop :=
  ∃ (neg : Bool) (m : Nat) (e : Int), t = .finite neg m e ∧ truncF neg m e = n

theorem finiteToWord_eq (oor : FloatOor) (n : Int) : finiteToWord oor n = toWord (rangeRule oor n) := by
  cases oor with
  | wrap => rfl
  | saturate =>
    have hmax : maxWord.toInt = 2 ^ 31 - 1 := rfl
    have hmin : minWord.toInt = -2 ^ 31 := rfl
    simp only [finiteToWord, rangeRule, clampInt, hmax, hmin]
    split_ifs with hhigh hlow
    · rw [show max (-2 ^ 31) (min (2 ^ 31 - 1) n) = 2 ^ 31 - 1 by omega]; rfl
    · rw [show max (-2 ^ 31) (min (2 ^ 31 - 1) n) = -2 ^ 31 by omega]; rfl
    · rw [show max (-2 ^ 31) (min (2 ^ 31 - 1) n) = n by omega]

theorem floatToWord_of_truncatesTo {t : FloatVal} {n : Int} (h : TruncatesTo t n) (oor : FloatOor) (draw : Word) :
    floatToWord oor draw t = toWord (rangeRule oor n) := by
  obtain ⟨neg, m, e, rfl, rfl⟩ := h
  exact finiteToWord_eq oor _

theorem rne_truncatesTo_of_representable (hm : m ≠ 0) (h : Representable f m e) :
    TruncatesTo (rne f neg m e) (truncF neg m e) :=
  ⟨neg, _, _, rne_of_representable hm h, truncF_mul_two_pow neg m _ e⟩

/-! #### The rounding step of FROMF, on significands (R50) -/

/-- (m + 2^j) / 2^(j+1) as a format with p fraction bits truncates it: rounded half up, but for the one operand just
below one half, which the format's own rounding takes to 1. -/
def halfUp (p m j : Nat) : Nat := if m = 2 ^ (p + 1) - 1 ∧ j = p + 1 then 1 else (m + 2 ^ j) / 2 ^ (j + 1)

/-- Truncation after rounding to even is truncation, unless the rounding goes up to a multiple of the unit. -/
theorem roundEven_div_two_pow {n g j : Nat} (h : roundEven n g = n / 2 ^ g + 1 → ¬ 2 ^ j ∣ n / 2 ^ g + 1) :
    roundEven n g / 2 ^ j = n / 2 ^ (g + j) := by
  rw [pow_add, ← Nat.div_div_eq_div_mul]
  obtain ⟨hr, -⟩ | ⟨hr, -⟩ := roundEven_cases n g
  · rw [hr]
  · rw [hr, Nat.succ_div, if_neg (h hr), Nat.add_zero]

/-- One bit too many, at a unit within the format's reach: the value rounded up is no multiple of the unit. -/
theorem roundEven_half_of_le {p m j : Nat} (hm : m < 2 ^ (p + 1)) (hj : j ≤ p) (hlong : 2 ^ (p + 1) ≤ m + 2 ^ j) :
    roundEven (m + 2 ^ j) 1 / 2 ^ j = (m + 2 ^ j) / 2 ^ (j + 1) := by
  rw [add_comm j 1]
  refine roundEven_div_two_pow fun hup hdvd => ?_
  obtain ⟨-, hodd, -⟩ : _ ∧ 2 ^ 1 ≤ 2 * ((m + 2 ^ j) % 2 ^ 1) ∧ _ := by
    obtain ⟨hr, -⟩ | hr := roundEven_cases (m + 2 ^ j) 1
    · omega
    · exact hr
  have hunit : 2 ^ (j + 1) ∣ m + 2 ^ j + 1 := by
    obtain ⟨c, hc⟩ := hdvd
    exact ⟨c, by rw [pow_succ, mul_right_comm, ← hc]; omega⟩
  have hrest : 2 ^ (j + 1) ∣ m + 2 ^ j + 1 - 2 ^ (p + 1) := Nat.dvd_sub hunit (pow_dvd_pow 2 (by omega))
  have hle := Nat.le_of_dvd (by omega) hrest
  rw [pow_succ 2 j] at hle
  have := Nat.two_pow_pos j
  omega

/-- The operand just below one half is odd, and the tie takes it up to 1; every other one stays below 1. -/
theorem roundEven_half_at_one {p m : Nat} (hm : m < 2 ^ (p + 1)) :
    roundEven (m + 2 ^ (p + 1)) 1 / 2 ^ (p + 1) = if m = 2 ^ (p + 1) - 1 then 1 else 0 := by
  rw [pow_succ] at *
  have hp := Nat.two_pow_pos p
  generalize 2 ^ p = q at *
  have hcases := roundEven_cases (m + q * 2) 1
  split_ifs with htop
  · have hr : roundEven (m + q * 2) 1 = q * 2 := by omega
    rw [hr, Nat.div_self (by omega)]
  · exact Nat.div_eq_of_lt (by omega)

/-- Where 2^j outweighs m by far, the sum stays below 2^(j+1) also when rounded. -/
theorem roundEven_half_of_far {p m i : Nat} (hm : m < 2 ^ (p + 2)) :
    roundEven (m + 2 ^ (p + 3 + i)) (i + 2) / 2 ^ (p + 2) = 0 := by
  refine Nat.div_eq_of_lt ?_
  have hi : 0 < 2 ^ i := Nat.two_pow_pos i
  have hdiv : (m + 2 ^ (p + 3 + i)) / 2 ^ (i + 2) < 3 * 2 ^ p := by
    rw [Nat.div_lt_iff_lt_mul (Nat.two_pow_pos _)]
    calc m + 2 ^ (p + 3 + i) < 2 ^ (p + 2) * 2 ^ i + 2 ^ (p + 3 + i) := by nlinarith
      _ = 3 * 2 ^ p * 2 ^ (i + 2) := by ring
  have hfour : 2 ^ (p + 2) = 4 * 2 ^ p := by ring
  obtain ⟨hr, -⟩ | ⟨hr, -⟩ := roundEven_cases (m + 2 ^ (p + 3 + i)) (i + 2) <;> omega

/-- R50's addition of one half, where it leaves g bits more than the format holds. -/
theorem roundEven_half {p m j g : Nat} (hp : 0 < p) (hm : m < 2 ^ (p + 1)) (hg : 0 < g)
    (hlen : bitLength (m + 2 ^ j) = p + 1 + g) :
    g ≤ j + 1 ∧ roundEven (m + 2 ^ j) g / 2 ^ (j + 1 - g) = halfUp p m j := by
  have hlong : 2 ^ (p + 1) ≤ m + 2 ^ j := lt_bitLength_iff.mp (by omega)
  by_cases hj : j ≤ p + 1
  · have hjpow : 2 ^ j ≤ 2 ^ (p + 1) := Nat.pow_le_pow_right (by decide) hj
    have hshort : bitLength (m + 2 ^ j) ≤ p + 2 := bitLength_le_iff.mpr (by rw [pow_succ _ (p + 1)]; omega)
    obtain rfl : g = 1 := by omega
    refine ⟨by omega, ?_⟩
    rw [Nat.add_sub_cancel, halfUp]
    obtain hj | rfl : j ≤ p ∨ j = p + 1 := by omega
    · rw [if_neg (by omega), roundEven_half_of_le hm hj hlong]
    · rw [roundEven_half_at_one hm, Nat.div_eq_of_lt (by rw [pow_succ _ (p + 1)]; omega)]
      simp
  · have hmpow : m < 2 ^ j := hm.trans_le (Nat.pow_le_pow_right (by decide) (by omega))
    have hj1 := bitLength_eq_succ (m := m + 2 ^ j) (n := j) (by omega) (by rw [pow_succ]; omega)
    obtain ⟨p, rfl⟩ := Nat.exists_eq_add_of_lt hp
    obtain ⟨i, rfl⟩ := Nat.exists_eq_add_of_le (show p + 3 ≤ j by omega)
    obtain rfl : g = i + 2 := by omega
    refine ⟨by omega, ?_⟩
    rw [halfUp, if_neg (by omega), Nat.div_eq_of_lt (b := 2 ^ (p + 3 + i + 1)) (by rw [pow_succ]; omega),
      show p + 3 + i + 1 - (i + 2) = p + 2 by omega]
    exact roundEven_half_of_far (by simpa [add_assoc, add_comm, add_left_comm] using hm)

/-- R50's addition of one half where the last place of the operand is 1 or more: it decides the tie of an odd operand
at 1, and is lost above. -/
theorem roundEven_half_of_integer (m i : Nat) :
    roundEven (m * 2 ^ (i + 1) + 1) (i + 1) = if i = 0 then m + m % 2 else m := by
  have hdiv : (m * 2 ^ (i + 1) + 1) / 2 ^ (i + 1) = m := by
    rw [mul_comm, Nat.mul_add_div (Nat.two_pow_pos _), Nat.div_eq_of_lt (Nat.one_lt_two_pow (by omega)), Nat.add_zero]
  have hmod : (m * 2 ^ (i + 1) + 1) % 2 ^ (i + 1) = 1 := by
    rw [mul_comm, Nat.mul_add_mod, Nat.mod_eq_of_lt (Nat.one_lt_two_pow (by omega))]
  have hcases := roundEven_cases (m * 2 ^ (i + 1) + 1) (i + 1)
  rw [hdiv, hmod] at hcases
  split_ifs with hi
  · subst hi
    simp only [zero_add, pow_one, forall_const] at hcases ⊢
    omega
  · have : 2 * 2 ≤ 2 ^ (i + 1) := by
      rw [pow_succ]; exact Nat.mul_le_mul_right 2 (Nat.le_self_pow hi 2)
    omega

/-! #### FROMF of a finite operand (R50) -/

theorem fracBits_pos (f : FloatFormat) : 0 < fracBits f := by cases f <;> decide

/-- The operands that FROMF adds lie well within the format's exponents. -/
theorem fracBits_add_lt_bias (f : FloatFormat) : fracBits f + 20 < bias f := by cases f <;> decide

theorem fmul_float65536 (f : FloatFormat) (neg : Bool) (m : Nat) (e : Int) :
    fmul f (.finite neg m e) float65536 = rne f neg m (e + 16) := by
  simp [fmul, float65536]

/-- A sum of two values of one sign, written at any place `y` below both. -/
theorem fadd_same_sign {d y : Int} {n : Nat} (f : FloatFormat) (neg : Bool) (hd : y ≤ d) (he : y ≤ e) (hn : n ≠ 0) :
    fadd f (.finite neg m d) (.finite neg n e) =
      rne f neg (m * 2 ^ (d - y).toNat + n * 2 ^ (e - y).toNat) y := by
  obtain ⟨x, hx⟩ : ∃ x, x = min d e := ⟨_, rfl⟩
  have hsum : m * 2 ^ (d - x).toNat + n * 2 ^ (e - x).toNat ≠ 0 := by
    have := Nat.mul_ne_zero hn (Nat.two_pow_pos (e - x).toNat).ne'
    omega
  have hzero : signed neg (m * 2 ^ (d - x).toNat + n * 2 ^ (e - x).toNat) ≠ 0 := by
    rwa [← Int.natAbs_ne_zero, natAbs_signed]
  have hfadd : fadd f (.finite neg m d) (.finite neg n e) =
      rne f neg (m * 2 ^ (d - x).toNat + n * 2 ^ (e - x).toNat) x := by
    simp only [fadd, ← hx, signed_add, natAbs_signed, if_neg hzero, signed_lt_zero_iff neg hsum]
    simp
  have hdy : (d - y).toNat = (d - x).toNat + (x - y).toNat := by omega
  have hey : (e - y).toNat = (e - x).toNat + (x - y).toNat := by omega
  rw [hfadd, ← rne_mul_two_pow f neg _ (x - y).toNat x, add_mul, mul_assoc, mul_assoc, ← pow_add, ← pow_add, ← hdy,
    ← hey, show x - ((x - y).toNat : Int) = y by omega]

/-- R50's rounding step, for an operand that is not zero: one half is added with the operand's sign. -/
theorem scaleFloat_of_representable (noRounding : Bool) (hm : m ≠ 0) (h : Representable f m (e + 16)) :
    scaleFloat f noRounding (.finite neg m e) =
      if noRounding then rne f neg m (e + 16)
      else fadd f (.finite neg (m * 2 ^ normalShift f m (e + 16)) (e + 16 - normalShift f m (e + 16)))
        (.finite neg 1 (-1)) := by
  have hmd : m * 2 ^ normalShift f m (e + 16) ≠ 0 := Nat.mul_ne_zero hm (Nat.two_pow_pos _).ne'
  rw [scaleFloat, fmul_float65536, rne_of_representable hm h]
  cases neg <;> simp [FloatVal.nonneg, fsub, fneg, floatHalf, hm]

theorem scaleFloat_zero_truncatesTo (f : FloatFormat) (noRounding neg : Bool) (e : Int) :
    TruncatesTo (scaleFloat f noRounding (.finite neg 0 e)) 0 := by
  have hmin := minExp_eq f
  have hfrac := fracBits_pos f
  have hbias := fracBits_add_lt_bias f
  have hzero : fmul f (.finite neg 0 e) float65536 = .finite neg 0 (minExp f) := by simp [fmul_float65536, rne]
  cases noRounding with
  | true => exact ⟨neg, 0, minExp f, hzero, by simp [truncF]⟩
  | false =>
    have hsum : scaleFloat f false (.finite neg 0 e) = fadd f (.finite false 0 (minExp f)) (.finite false 1 (-1)) := by
      simp [scaleFloat, hzero, FloatVal.nonneg, floatHalf, fadd, signed]
    have hhalf : Representable f 1 (-1) :=
      ⟨Nat.one_lt_two_pow (by omega), by omega, by
        have := bitLength_eq_succ (m := 1) (n := 0) (by decide) (by decide)
        omega⟩
    have hrne : fadd f (.finite false 0 (minExp f)) (.finite false 1 (-1)) = rne f false 1 (-1) := by
      rw [fadd_same_sign f false (le_refl _) (show minExp f ≤ -1 by omega) one_ne_zero, zero_mul, zero_add,
        ← rne_mul_two_pow f false 1 (-1 - minExp f).toNat (-1)]
      congr 1
      omega
    rw [hsum, hrne]
    exact rne_truncatesTo_of_representable one_ne_zero hhalf

/-- Below the unit: the sum with one half is m + 2^j at 2^-(j+1), and the format may hold it or round it. -/
theorem rne_half_truncatesTo {j : Nat} (neg : Bool) (hm : m < 2 ^ (fracBits f + 1))
    (hlow : minExp f ≤ -(j + 1 : Nat)) :
    TruncatesTo (rne f neg (m + 2 ^ j) (-(j + 1 : Nat))) (signed neg (halfUp (fracBits f) m j)) := by
  have hbias := fracBits_add_lt_bias f
  have hsum : m + 2 ^ j ≠ 0 := by have := Nat.two_pow_pos j; omega
  by_cases hfits : bitLength (m + 2 ^ j) ≤ fracBits f + 1
  · have hrep : Representable f (m + 2 ^ j) (-(j + 1 : Nat)) := ⟨bitLength_le_iff.mp hfits, hlow, by omega⟩
    have htop : ¬ (m = 2 ^ (fracBits f + 1) - 1 ∧ j = fracBits f + 1) := by
      rintro ⟨-, rfl⟩
      have := hrep.fits
      omega
    rw [halfUp, if_neg htop, ← truncF_neg_natCast]
    exact rne_truncatesTo_of_representable hsum hrep
  · obtain ⟨g, hlen⟩ := Nat.exists_eq_add_of_le (not_le.mp hfits).le
    obtain ⟨hgj, htrunc⟩ := roundEven_half (fracBits_pos f) hm (by omega) hlen
    have hround : bitLength (roundEven (m + 2 ^ j) g) ≤ fracBits f + 2 :=
      bitLength_le_iff.mpr ((roundEven_bounds hlen).2.trans_lt (Nat.pow_lt_pow_right (by decide) (by omega)))
    refine ⟨neg, _, _, rne_of_long hlen (by omega) (by omega), ?_⟩
    rw [show -((j + 1 : Nat) : Int) + g = -(j + 1 - g : Nat) by omega, truncF_neg_natCast, htrunc]

/-- From the unit up: the sum with one half is m x 2^(i+1) + 1 at 1/2, and the format rounds it. -/
theorem rne_half_of_integer_truncatesTo {i : Nat} (neg : Bool) (hlen : bitLength m = fracBits f + 1)
    (hhigh : i + fracBits f ≤ bias f) :
    TruncatesTo (rne f neg (m * 2 ^ (i + 1) + 1) (-1)) (signed neg (if i = 0 then m + m % 2 else m * 2 ^ i)) := by
  have hbias := fracBits_add_lt_bias f
  have hmin := minExp_eq f
  obtain ⟨hmlow, hmhigh⟩ := bitLength_bounds hlen
  have hlong : bitLength (m * 2 ^ (i + 1) + 1) = fracBits f + 1 + (i + 1) := by
    rw [bitLength_eq_succ (n := fracBits f + (i + 1))]
    · omega
    · rw [pow_add]; exact (Nat.mul_le_mul_right _ hmlow).trans (Nat.le_succ _)
    · rw [show fracBits f + (i + 1) + 1 = fracBits f + 1 + (i + 1) by omega, pow_add _ (fracBits f + 1)]
      have := Nat.mul_le_mul_right (2 ^ (i + 1)) (Nat.succ_le_of_lt hmhigh)
      have := Nat.one_lt_two_pow (n := i + 1) (by omega)
      rw [Nat.succ_mul] at *
      omega
  have hround := roundEven_half_of_integer m i
  have hroundLen : (i : Int) + bitLength (roundEven (m * 2 ^ (i + 1) + 1) (i + 1)) ≤ (bias f : Int) + 1 := by
    rw [hround]
    split_ifs with hi
    · have : bitLength (m + m % 2) ≤ fracBits f + 2 := bitLength_le_iff.mpr (by rw [pow_succ]; omega)
      omega
    · omega
  refine ⟨neg, _, _, rne_of_long hlong (by omega) (by omega), ?_⟩
  rw [show (-1 : Int) + (i + 1 : Nat) = (i : Nat) by omega, truncF_natCast, hround]
  split_ifs with hi
  · simp [hi]
  · rfl

/-- The magnitude that FROMF converts m x 2^e to, before the range rule, in a format with `p` fraction bits. -/
def convertedAt (p : Nat) (noRounding : Bool) (m : Nat) (e : Int) : Nat :=
  if e < 0 then (if noRounding then m / 2 ^ (-e).toNat else halfUp p m ((-e).toNat - 1))
  else if e = 0 then (if noRounding then m else m + m % 2)
  else m * 2 ^ e.toNat

theorem convertedAt_neg (p : Nat) (noRounding : Bool) (m j : Nat) :
    convertedAt p noRounding m (-(j + 1 : Nat)) = if noRounding then m / 2 ^ (j + 1) else halfUp p m j := by
  rw [convertedAt, if_pos (by omega), neg_neg, Int.toNat_natCast, Nat.add_sub_cancel]

theorem convertedAt_natCast (p : Nat) (noRounding : Bool) (m i : Nat) :
    convertedAt p noRounding m i = if i = 0 then (if noRounding then m else m + m % 2) else m * 2 ^ i := by
  rw [convertedAt, if_neg (by omega), Int.toNat_natCast]
  simp

/-- A zero or subnormal operand's exponent: zero is converted to zero. -/
theorem convertedAt_zero (f : FloatFormat) (noRounding : Bool) :
    convertedAt (fracBits f) noRounding 0 (minExp f + 16) = 0 := by
  have hbias := fracBits_add_lt_bias f
  have hmin := minExp_eq f
  obtain ⟨j, hj⟩ : ∃ j : Nat, minExp f + 16 = -(j + 1 : Nat) := ⟨(-(minExp f + 16) - 1).toNat, by omega⟩
  have hhalf : halfUp (fracBits f) 0 j = 0 := by
    rw [halfUp, if_neg (by omega), Nat.zero_add, Nat.div_eq_of_lt (Nat.pow_lt_pow_right (by decide) j.lt_succ_self)]
  rw [hj, convertedAt_neg, hhalf, Nat.zero_div, ite_self]

/-- Below the unit. -/
theorem scaleFloat_truncatesTo_of_neg {j : Nat} (noRounding neg : Bool) (hm : m ≠ 0)
    (hj : e + 16 = -(j + 1 : Nat)) (h : Representable f m (e + 16)) :
    TruncatesTo (scaleFloat f noRounding (.finite neg m e))
      (signed neg (if noRounding then m / 2 ^ (j + 1) else halfUp (fracBits f) m j)) := by
  rw [scaleFloat_of_representable noRounding hm h]
  rw [hj] at h ⊢
  cases noRounding with
  | true =>
    simp only [if_true]
    rw [← truncF_neg_natCast]
    exact rne_truncatesTo_of_representable hm h
  | false =>
    simp only [Bool.false_eq_true, if_false]
    generalize normalShift f m (-(j + 1 : Nat)) = d
    have hplace : (-1 - (-((j + 1 : Nat) : Int) - d)).toNat = j + d := by omega
    have hsum : m * 2 ^ d * 2 ^ 0 + 1 * 2 ^ (j + d) = (m + 2 ^ j) * 2 ^ d := by ring
    rw [fadd_same_sign f neg (le_refl _) (by omega) one_ne_zero, sub_self, Int.toNat_zero, hplace, hsum,
      rne_mul_two_pow]
    exact rne_half_truncatesTo neg h.fits h.low

/-- From the unit up, for a normal operand. -/
theorem scaleFloat_truncatesTo_of_natCast {i : Nat} (noRounding neg : Bool) (hlen : bitLength m = fracBits f + 1)
    (hi : e + 16 = i) (hhigh : i + fracBits f ≤ bias f) (h : Representable f m (e + 16)) :
    TruncatesTo (scaleFloat f noRounding (.finite neg m e))
      (signed neg (if i = 0 then (if noRounding then m else m + m % 2) else m * 2 ^ i)) := by
  have hm : m ≠ 0 := by rintro rfl; simp [bitLength] at hlen
  rw [scaleFloat_of_representable noRounding hm h]
  rw [hi] at h ⊢
  cases noRounding with
  | true =>
    have hmag : (if i = 0 then m else m * 2 ^ i) = m * 2 ^ i := by split_ifs with hi0 <;> simp [hi0]
    simp only [if_true]
    rw [hmag, ← truncF_natCast]
    exact rne_truncatesTo_of_representable hm h
  | false =>
    have hshift : normalShift f m i = 0 := by rw [normalShift_eq, hlen]; omega
    have hplace : ((i : Int) - -1).toNat = i + 1 := by omega
    simp only [Bool.false_eq_true, if_false, hshift, pow_zero, mul_one, Nat.cast_zero, sub_zero]
    rw [fadd_same_sign f neg (show (-1 : Int) ≤ i by omega) (le_refl _) one_ne_zero, hplace, sub_self, Int.toNat_zero,
      pow_zero, mul_one]
    exact rne_half_of_integer_truncatesTo neg hlen hhigh

/-- FROMF's scaled and rounded operand, for every finite operand in normal form whose product stays in range. -/
theorem scaleFloat_truncatesTo (noRounding neg : Bool) (hfits : m < 2 ^ (fracBits f + 1)) (hlow : minExp f ≤ e)
    (hnormal : 2 ^ fracBits f ≤ m ∨ e = minExp f) (hhigh : e + 16 + fracBits f ≤ bias f) :
    TruncatesTo (scaleFloat f noRounding (.finite neg m e))
      (signed neg (convertedAt (fracBits f) noRounding m (e + 16))) := by
  have hbias := fracBits_add_lt_bias f
  have hmin := minExp_eq f
  by_cases hm : m = 0
  · have hfrac := Nat.two_pow_pos (fracBits f)
    obtain rfl : e = minExp f := by omega
    rw [hm, convertedAt_zero, signed_zero]
    exact scaleFloat_zero_truncatesTo f noRounding neg (minExp f)
  have hlen := bitLength_le_iff.mpr hfits
  have hrep : Representable f m (e + 16) := ⟨hfits, by omega, by omega⟩
  obtain hneg | hnat := lt_or_ge (e + 16) 0
  · obtain ⟨j, hj⟩ : ∃ j : Nat, e + 16 = -(j + 1 : Nat) := ⟨(-(e + 16) - 1).toNat, by omega⟩
    have := scaleFloat_truncatesTo_of_neg noRounding neg hm hj hrep
    rwa [hj, convertedAt_neg]
  · obtain ⟨i, hi⟩ := Int.eq_ofNat_of_zero_le hnat
    have hfull : bitLength m = fracBits f + 1 := bitLength_eq_succ (by omega) hfits
    have := scaleFloat_truncatesTo_of_natCast noRounding neg hfull hi (by omega) hrep
    rwa [hi, convertedAt_natCast]

/-! #### STOX and DTOX (R54, R55) -/

theorem convertedMagnitude_eq (p unit : Nat) (noRounding : Bool) (ex frac : Nat) :
    convertedMagnitude p unit noRounding ex frac =
      convertedAt p noRounding (significand p ex frac) ((max ex 1 : Nat) - (unit : Int)) := by
  have hsig : (if ex = 0 then frac else 2 ^ p + frac) = significand p ex frac := rfl
  simp only [convertedMagnitude, hsig]
  generalize significand p ex frac = m
  generalize max ex 1 = e
  obtain hlt | rfl | hgt := lt_trichotomy e unit
  · obtain ⟨j, rfl⟩ := Nat.exists_eq_add_of_lt hlt
    rw [show (e : Int) - (e + j + 1 : Nat) = -(j + 1 : Nat) by omega, convertedAt_neg, if_pos hlt,
      show e + j + 1 - e = j + 1 by omega, Nat.add_sub_cancel, halfUp]
    simp only [Nat.add_right_cancel_iff]
  · rw [sub_self, ← Nat.cast_zero, convertedAt_natCast, if_neg (lt_irrefl e), if_pos rfl, if_pos rfl]
  · obtain ⟨i, rfl⟩ := Nat.exists_eq_add_of_lt hgt
    rw [show ((unit + i + 1 : Nat) : Int) - unit = (i + 1 : Nat) by omega, convertedAt_natCast, if_neg (by omega),
      if_neg (by omega), if_neg (by omega), show unit + i + 1 - unit = i + 1 by omega]

theorem significand_lt {p frac : Nat} (ex : Nat) (h : frac < 2 ^ p) : significand p ex frac < 2 ^ (p + 1) := by
  rw [significand, pow_succ]
  split_ifs <;> omega

theorem significand_normal {ex : Nat} (p frac : Nat) (h : ex ≠ 0) : 2 ^ p ≤ significand p ex frac := by
  rw [significand, if_neg h]
  omega

/-- FROMF of every operand whose scaled value is finite, in either format. -/
theorem fromFloat_of_finite (p : Policy) {bits : BitVec 64} {ex frac : Nat} (h : HasFields f bits neg ex frac)
    (hex : ex + 16 ≤ 2 * bias f) :
    fromFloat p f bits =
      toWord (rangeRule p.floatOor
        (signed neg (convertedMagnitude (fracBits f) (bias f + fracBits f - 16) p.noRounding ex frac))) := by
  have hbias := fracBits_add_lt_bias f
  have hmin := minExp_eq f
  have hfrac : frac < 2 ^ fracBits f := h.fraction ▸ fractionField_lt f bits
  have hnormal : 2 ^ fracBits f ≤ significand (fracBits f) ex frac ∨ minExp f + (max ex 1 : Nat) - 1 = minExp f := by
    by_cases hzero : ex = 0
    · right; rw [hzero]; simp
    · exact .inl (significand_normal _ _ hzero)
  have htrunc := scaleFloat_truncatesTo p.noRounding neg (significand_lt ex hfrac) (by omega) hnormal (by omega)
  have hplace : minExp f + (max ex 1 : Nat) - 1 + 16 = (max ex 1 : Nat) - ((bias f + fracBits f - 16 : Nat) : Int) := by
    omega
  rw [fromFloat, valF_eq, h.exponent, h.fraction, h.sign, if_neg (by omega), floatToWord_of_truncatesTo htrunc, hplace,
    convertedMagnitude_eq]

/-- Once the product with 65536 is infinite, the rounding step leaves it so. -/
theorem scaleFloat_of_infinite {x : FloatVal} (noRounding : Bool) (h : fmul f x float65536 = .infinite neg) :
    scaleFloat f noRounding x = .infinite neg := by
  rw [scaleFloat, h]
  cases noRounding <;> cases neg <;> rfl

theorem fromFloat_of_infinite (p : Policy) {bits : BitVec 64} (hoor : p.floatOor = .saturate)
    (h : fmul f (valF f bits) float65536 = .infinite neg) :
    fromFloat p f bits = toWord (if neg then -2 ^ 31 else 2 ^ 31 - 1) := by
  rw [fromFloat, scaleFloat_of_infinite p.noRounding h, hoor]
  cases neg <;> rfl

theorem fromFloat_of_nan (p : Policy) {bits : BitVec 64} (hoor : p.floatOor = .saturate)
    (h : valF f bits = .nan) : fromFloat p f bits = toWord 0 := by
  have hscale : scaleFloat f p.noRounding .nan = .nan := by cases p.noRounding <;> rfl
  rw [fromFloat, h, hscale, hoor]
  rfl

/-- FROMF of every operand whose scaled value is not finite, under SATURATE. -/
theorem fromFloat_of_nonFinite (p : Policy) (hoor : p.floatOor = .saturate) {bits : BitVec 64} {ex frac : Nat}
    (h : HasFields f bits neg ex frac) (hex : 2 * bias f < ex + 16) :
    fromFloat p f bits =
      toWord (if ex = 2 * bias f + 1 ∧ frac ≠ 0 then 0 else if neg then -2 ^ 31 else 2 ^ 31 - 1) := by
  have hval := valF_eq f bits
  rw [h.exponent, h.fraction, h.sign] at hval
  by_cases hnan : ex = 2 * bias f + 1 ∧ frac ≠ 0
  · rw [if_pos hnan.1, if_neg hnan.2] at hval
    rw [fromFloat_of_nan p hoor hval, if_pos hnan]
  · suffices hmul : fmul f (valF f bits) float65536 = .infinite neg by
      rw [fromFloat_of_infinite p hoor hmul, if_neg hnan]
    by_cases htop : ex = 2 * bias f + 1
    · have hfrac : frac = 0 := by simpa [htop] using hnan
      rw [hval, if_pos htop, if_pos hfrac]
      simp [fmul, float65536]
    · have hbias := fracBits_add_lt_bias f
      have hmin := minExp_eq f
      have hfrac : frac < 2 ^ fracBits f := h.fraction ▸ fractionField_lt f bits
      have hlen : bitLength (significand (fracBits f) ex frac) = fracBits f + 1 :=
        bitLength_eq_succ (significand_normal _ _ (by omega)) (significand_lt _ hfrac)
      rw [hval, if_neg htop, fmul_float65536]
      exact rne_of_overflow hlen (by omega) (by omega)

theorem hasFields_binary32 (x : Word) : HasFields .binary32 (zext64 x) x.msb (exponent32 x) (fraction32 x) := by
  have hx := x.isLt
  have hz : (zext64 x).toNat = x.toNat := BitVec.toNat_setWidth_of_le (by decide)
  constructor
  case sign =>
    simp only [signField, hz, fracBits, expBits, BitVec.msb_eq_decide, Nat.testBit_eq_decide_div_mod_eq,
      decide_eq_decide]
    omega
  case exponent => simp [exponentField, hz, fracBits, expBits, exponent32, Nat.shiftRight_eq_div_pow]
  case fraction => simp [fractionField, hz, fracBits, fraction32]

theorem hasFields_binary64 (x : DWord) : HasFields .binary64 x x.msb (exponent64 x) (fraction64 x) := by
  have hx := x.isLt
  constructor
  case sign =>
    simp only [signField, fracBits, expBits, BitVec.msb_eq_decide, Nat.testBit_eq_decide_div_mod_eq, decide_eq_decide]
    omega
  case exponent => simp [exponentField, fracBits, expBits, exponent64, Nat.shiftRight_eq_div_pow]
  case fraction => simp [fractionField, fracBits, fraction64]

/-- Settles O47: `fromFloat_of_finite` at binary32. -/
theorem binary32ToFixedClosedForm : Obligations.Binary32ToFixedClosedForm := by
  intro s x hx
  have hanswer := answers_stox x s
  rwa [fromFloat_of_finite s.cfg.policy (hasFields_binary32 x) (Nat.add_le_add_right hx 16)] at hanswer

/-- Settles O48: `fromFloat_of_finite` at binary64. -/
theorem binary64ToFixedClosedForm : Obligations.Binary64ToFixedClosedForm := by
  intro s x hx
  have hanswer := answers_dtox x s
  rwa [fromFloat_of_finite s.cfg.policy (hasFields_binary64 x) (Nat.add_le_add_right hx 16)] at hanswer

/-- Settles O49: the word is the draw of R51, or under SATURATE the one that `fromFloat_of_nonFinite` names. -/
theorem nonFiniteFloatsConvert : Obligations.NonFiniteFloatsConvert := by
  refine fun s => ⟨fun x hx => ⟨⟨_, answers_stox x s⟩, fun hoor => ?_⟩,
    fun x hx => ⟨⟨_, answers_dtox x s⟩, fun hoor => ?_⟩⟩
  · have hanswer := answers_stox x s
    rwa [fromFloat_of_nonFinite s.cfg.policy hoor (hasFields_binary32 x) (Nat.add_le_add_right hx 16)] at hanswer
  · have hanswer := answers_dtox x s
    rwa [fromFloat_of_nonFinite s.cfg.policy hoor (hasFields_binary64 x) (Nat.add_le_add_right hx 16)] at hanswer

/-! #### XTOD, XTOS and the round trips (R56 to R58) -/

theorem signed_natAbs (z : Int) : signed (decide (z < 0)) z.natAbs = z := by
  by_cases hz : z < 0
  · simp only [signed, hz, decide_true, if_true]; omega
  · simp only [signed, hz, decide_false, Bool.false_eq_true, if_false]; omega

theorem valF_zero (f : FloatFormat) : valF f 0#64 = .finite false 0 (minExp f) := by
  cases f <;> rfl

/-- A factor 2^d may stand in either part of a value. -/
theorem mul_two_pow_value (m d : Nat) (e : Int) : ((m * 2 ^ d : Nat) : Rat) * 2 ^ (e - d) = m * 2 ^ e := by
  rw [zpow_sub₀ two_ne_zero, zpow_natCast]
  push_cast
  field_simp

theorem natAbs_toInt_ne_zero {a : Word} (h : a ≠ 0#32) : a.toInt.natAbs ≠ 0 := fun hmag =>
  h (BitVec.eq_of_toInt_eq (Int.natAbs_eq_zero.mp hmag))

theorem signed_value (z : Int) {v : Rat} (h : v = z.natAbs * 2 ^ (-16 : Int)) :
    (if decide (z < 0) then -v else v) = (z : Rat) / 65536 := by
  have habs : (z.natAbs : Rat) = |(z : Rat)| := by rw [Nat.cast_natAbs, Int.cast_abs]
  rw [h, habs, show (2 : Rat) ^ (-16 : Int) = 1 / 65536 by norm_num]
  by_cases hz : z < 0
  · have hcast : (z : Rat) < 0 := by exact_mod_cast hz
    rw [abs_of_neg hcast]
    simp [hz]
    ring
  · have hcast : 0 ≤ (z : Rat) := by exact_mod_cast not_lt.mp hz
    rw [abs_of_nonneg hcast]
    simp [hz]
    ring

theorem toBinary64_eq (a : Word) :
    toBinary64 a = bitsF .binary64 (.finite (decide (a.toInt < 0)) a.toInt.natAbs (-16)) := by
  have hsign : (!nonneg a) = decide (a.toInt < 0) := by
    rw [nonneg, ← decide_not, fixedOperand, decide_eq_decide, not_le]
  rw [toBinary64, hsign, magnitude, fixedOperand]

/-- A magnitude over 65536 that fits a significand is a value of the format. -/
theorem representable_fixed (hm : m < 2 ^ (fracBits f + 1)) : Representable f m (-16) := by
  have hlen := bitLength_le_iff.mpr hm
  have hbias := fracBits_add_lt_bias f
  have hmin := minExp_eq f
  exact ⟨hm, by omega, by omega⟩

/-- Such a value is shifted until its significand is full. -/
theorem bitLength_normalShift_fixed (hm : m < 2 ^ (fracBits f + 1)) :
    bitLength m + normalShift f m (-16) = fracBits f + 1 := by
  have hlen := bitLength_le_iff.mpr hm
  have hbias := fracBits_add_lt_bias f
  have hmin := minExp_eq f
  rw [normalShift_eq]
  omega

theorem exists_value_bitsF (neg : Bool) (hm : m ≠ 0) (h : Representable f m e) :
    ∃ (n : Nat) (k : Int), valF f (bitsF f (.finite neg m e)) = .finite neg n k ∧ (n : Rat) * 2 ^ k = m * 2 ^ e :=
  ⟨_, _, valF_bitsF hm h, mul_two_pow_value m _ e⟩

/-- Settles O51: a magnitude of at most 2^31 fits the significand of binary64. -/
theorem fixedToBinary64IsExact : Obligations.FixedToBinary64IsExact := by
  refine ⟨unaryAt_of_encode (by decide) (by decide) fun _ => rfl, fun s a => ?_⟩
  have hanswer := answers_xtod a s
  rw [toBinary64_eq] at hanswer
  by_cases ha : a = 0#32
  · subst ha
    exact ⟨0#64, false, 0, minExp .binary64, hanswer, valF_zero _, by simp, fun _ => rfl⟩
  · have hmag := natAbs_toInt_ne_zero ha
    have hfits : a.toInt.natAbs < 2 ^ (fracBits .binary64 + 1) := (natAbs_toInt_le a).trans_lt (by decide)
    obtain ⟨n, k, hval, hexact⟩ := exists_value_bitsF (decide (a.toInt < 0)) hmag (representable_fixed hfits)
    refine ⟨_, _, n, k, hanswer, hval, ?_, fun h => absurd h ha⟩
    rw [← signed_value a.toInt hexact]
    split_ifs <;> ring

/-- A significand shifted left by d and read at 2^-d converts to itself, unless the rounding step decides a tie. -/
theorem convertedAt_mul_two_pow {p d : Nat} {noRounding : Bool} (hexact : noRounding = true ∨ 0 < d) :
    convertedAt p noRounding (m * 2 ^ d) (-(d : Int)) = m := by
  cases d with
  | zero =>
    have hnr : noRounding = true := by simpa using hexact
    simpa [hnr] using convertedAt_natCast p true m 0
  | succ j =>
    have hpow : 0 < 2 ^ (j + 1) := Nat.two_pow_pos _
    have hhalf : halfUp p (m * 2 ^ (j + 1)) j = m := by
      have hodd : ¬ (m * 2 ^ (j + 1) = 2 ^ (p + 1) - 1 ∧ j = p + 1) := by
        rintro ⟨hm, -⟩
        have := Nat.two_pow_pos p
        rw [pow_succ, pow_succ, ← mul_assoc] at hm
        omega
      rw [halfUp, if_neg hodd, mul_comm, Nat.mul_add_div hpow,
        Nat.div_eq_of_lt (Nat.pow_lt_pow_right (by decide) j.lt_succ_self), Nat.add_zero]
    rw [convertedAt_neg, hhalf, Nat.mul_div_cancel _ hpow, ite_self]

theorem rangeRule_toInt (oor : FloatOor) (a : Word) : rangeRule oor a.toInt = a.toInt := by
  have hlow := BitVec.le_toInt a
  have hhigh := BitVec.toInt_lt (x := a)
  cases oor with
  | wrap => rfl
  | saturate => simp only [rangeRule, clampInt]; omega

/-- FROMF of the exact value a / 65536 gives a back, where no tie at 1 can disturb it. -/
theorem fromFloat_fixed (p : Policy) (a : Word) (hfits : a.toInt.natAbs < 2 ^ (fracBits f + 1))
    (hexact : p.noRounding = true ∨ a.toInt.natAbs < 2 ^ fracBits f) :
    fromFloat p f (bitsF f (.finite (decide (a.toInt < 0)) a.toInt.natAbs (-16))) = a := by
  suffices h : TruncatesTo
      (scaleFloat f p.noRounding (valF f (bitsF f (.finite (decide (a.toInt < 0)) a.toInt.natAbs (-16))))) a.toInt by
    rw [fromFloat, floatToWord_of_truncatesTo h, rangeRule_toInt, toWord_toInt]
  by_cases hmag : a.toInt.natAbs = 0
  · rw [hmag, bitsF_zero, valF_zero, Int.natAbs_eq_zero.mp hmag]
    exact scaleFloat_zero_truncatesTo f p.noRounding false _
  · have hbias := fracBits_add_lt_bias f
    have hmin := minExp_eq f
    have hshift := bitLength_normalShift_fixed hfits
    have hlen := bitLength_mul_two_pow hmag (normalShift f a.toInt.natAbs (-16))
    rw [valF_bitsF hmag (representable_fixed hfits)]
    generalize normalShift f a.toInt.natAbs (-16) = d at *
    obtain ⟨hfull, hlt⟩ := bitLength_bounds (hlen.trans hshift)
    have htrunc := scaleFloat_truncatesTo p.noRounding (decide (a.toInt < 0)) (e := -16 - d) hlt (by omega)
      (.inl hfull) (by omega)
    have hd : p.noRounding = true ∨ 0 < d := hexact.imp_right fun hsmall => by
      have := bitLength_le_iff.mpr hsmall
      omega
    rwa [show -16 - (d : Int) + 16 = -(d : Int) by omega, convertedAt_mul_two_pow hd, signed_natAbs] at htrunc

/-- Settles O52: every magnitude lies below 2^52. -/
theorem binary64RoundTrip : Obligations.Binary64RoundTrip := by
  intro s a
  refine ⟨toBinary64 a, answers_xtod a s, ?_⟩
  have hmag := natAbs_toInt_le a
  have hanswer := answers_dtox (toBinary64 a) s
  rwa [toBinary64_eq, fromFloat_fixed s.cfg.policy a (hmag.trans_lt (by decide)) (.inr (hmag.trans_lt (by decide))),
    ← toBinary64_eq] at hanswer

/-! ##### The division of XTOS -/

theorem fdiv_float65536 (f : FloatFormat) (neg : Bool) (m : Nat) (e : Int) :
    fdiv f (.finite neg m e) float65536 = rne f neg m (e - 16) := by
  rw [← rne_mul_two_pow f neg m 129 (e - 16)]
  simp [fdiv, float65536, rneQuotient, Nat.mod_one]
  congr 1 <;> ring

theorem rne_zero (f : FloatFormat) (neg : Bool) (e : Int) : rne f neg 0 e = .finite neg 0 (minExp f) := rfl

theorem bitsF_rne_of_representable (neg : Bool) (h : Representable f m e) :
    bitsF f (rne f neg m e) = bitsF f (.finite neg m e) := by
  by_cases hm : m = 0
  · simp [hm, rne_zero]
  · rw [rne_of_representable hm h, bitsF_mul_two_pow]

/-- R56: below 2^24 nothing is rounded, and XTOS encodes a / 65536. -/
theorem toBinary32_of_short (a : Word) (h : a.toInt.natAbs < 2 ^ 24) :
    toBinary32 a = bitsF .binary32 (.finite (decide (a.toInt < 0)) a.toInt.natAbs (-16)) := by
  have hrep : Representable .binary32 a.toInt.natAbs (-16) := representable_fixed h
  have hdiv : fdiv .binary32 (cvtF .binary32 a.toInt) float65536 =
      rne .binary32 (decide (a.toInt < 0)) a.toInt.natAbs (-16) := by
    by_cases hmag : a.toInt.natAbs = 0
    · rw [cvtF, hmag, rne_zero, fdiv_float65536, rne_zero, rne_zero]
    · have hint : Representable .binary32 a.toInt.natAbs 0 := by
        have := hrep.bitLength_le
        exact ⟨h, by decide, by simp [bias, fracBits, expBits] at *; omega⟩
      rw [cvtF, rne_of_representable hmag hint, fdiv_float65536, sub_right_comm, rne_mul_two_pow]
      rfl
  rw [toBinary32, fixedOperand, hdiv, bitsF_rne_of_representable _ hrep]

/-- R56: from 2^24 on the conversion rounds to even, to 24 bits or to 2^24, and the division is exact. -/
theorem toBinary32_of_long (a : Word) {k : Nat} (h : bitLength a.toInt.natAbs = 24 + k) (hk : k ≤ 8) :
    toBinary32 a = bitsF .binary32 (rne .binary32 (decide (a.toInt < 0)) (roundEven a.toInt.natAbs k) (k - 16)) := by
  have hround : bitLength (roundEven a.toInt.natAbs k) ≤ 25 :=
    bitLength_le_iff.mpr ((roundEven_bounds (p := 23) h).2.trans_lt (by decide))
  have hbias : bias .binary32 = 127 := rfl
  have hmin : minExp .binary32 = -149 := rfl
  rw [toBinary32, fixedOperand, cvtF, rne_of_long (f := .binary32) h (by omega) (by omega), fdiv_float65536, zero_add]

/-- Also a significand rounded up to 2^(p+1) is a value of the format. -/
theorem exists_bitsF_rne (neg : Bool) (hm : m ≠ 0) (hle : m ≤ 2 ^ (fracBits f + 1)) (hlow : minExp f ≤ e)
    (hhigh : e + fracBits f + 1 ≤ bias f) :
    ∃ (n : Nat) (k : Int), n ≠ 0 ∧ Representable f n k ∧ (n : Rat) * 2 ^ k = m * 2 ^ e ∧
      bitsF f (rne f neg m e) = bitsF f (.finite neg n k) := by
  obtain hlt | rfl := Nat.lt_or_eq_of_le hle
  · have hlen := bitLength_le_iff.mpr hlt
    have hrep : Representable f m e := ⟨hlt, hlow, by omega⟩
    exact ⟨m, e, hm, hrep, rfl, bitsF_rne_of_representable neg hrep⟩
  · have hlen : bitLength (2 ^ fracBits f) = fracBits f + 1 :=
      bitLength_eq_succ le_rfl (Nat.pow_lt_pow_right (by decide) (Nat.lt_succ_self _))
    have hrep : Representable f (2 ^ fracBits f) (e + 1) :=
      ⟨Nat.pow_lt_pow_right (by decide) (Nat.lt_succ_self _), by omega, by omega⟩
    have he : e = e + 1 - (1 : Nat) := by simp
    have hpow : 2 ^ (fracBits f + 1) = 2 ^ fracBits f * 2 ^ 1 := pow_add 2 _ 1
    refine ⟨2 ^ fracBits f, e + 1, (Nat.two_pow_pos _).ne', hrep, ?_, ?_⟩
    · rw [← mul_two_pow_value _ 1 (e + 1), ← he, hpow]
    · rw [← bitsF_rne_of_representable neg hrep, ← rne_mul_two_pow f neg _ 1 (e + 1), ← he, hpow]

/-- Rounding to even takes the nearest multiple of 2^k, and in a tie the even one. -/
theorem roundEven_nearest (n k : Nat) :
    2 * ((roundEven n k * 2 ^ k : Nat) - (n : Int)).natAbs ≤ 2 ^ k ∧
      (2 * ((roundEven n k * 2 ^ k : Nat) - (n : Int)).natAbs = 2 ^ k → roundEven n k % 2 = 0) := by
  have hsplit := Nat.div_add_mod' n (2 ^ k)
  have hmod := Nat.mod_lt n (Nat.two_pow_pos k)
  obtain ⟨hr, hcases⟩ | ⟨hr, hcases⟩ := roundEven_cases n k
  · rw [hr]
    generalize n / 2 ^ k * 2 ^ k = q at *
    omega
  · rw [hr, add_one_mul (n / 2 ^ k) (2 ^ k)]
    generalize n / 2 ^ k * 2 ^ k = q at *
    omega

theorem toNat_toBinary32_of_short (a : Word) (h : a.toInt.natAbs < 2 ^ 24) : (toBinary32 a).toNat < 2 ^ 32 := by
  rw [toBinary32_of_short a h]
  by_cases hmag : a.toInt.natAbs = 0
  · simp [hmag]
  · exact toNat_bitsF_binary32_lt _ hmag (representable_fixed h)

/-- Settles O53: below 2^24 XTOS is exact, and its pattern fits in 32 bits. -/
theorem binary32RoundTrip : Obligations.Binary32RoundTrip := by
  intro s a hrange
  have hmag : a.toInt.natAbs < 2 ^ 24 := by omega
  have hword : zext64 ((toBinary32 a).setWidth 32) = toBinary32 a := by
    have hlt := toNat_toBinary32_of_short a hmag
    apply BitVec.eq_of_toNat_eq
    simp only [zext64, BitVec.toNat_setWidth]
    omega
  refine ⟨(toBinary32 a).setWidth 32, ?_, ?_⟩
  · have hanswer := answers_xtos a s
    rwa [← hword] at hanswer
  · have hanswer := answers_stox ((toBinary32 a).setWidth 32) s
    rwa [hword, toBinary32_of_short a hmag,
      fromFloat_fixed (f := .binary32) s.cfg.policy a hmag (hrange.symm.imp_left And.left),
      ← toBinary32_of_short a hmag] at hanswer

/-- The part of O50 that speaks of the pattern: it fits in 32 bits and has the value v / 65536 with the sign of a. -/
def EncodesFixed (a : Word) (v : Rat) : Prop :=
  (toBinary32 a).toNat < 2 ^ 32 ∧
    ∃ (n : Nat) (e : Int), valF .binary32 (toBinary32 a) = .finite (decide (a.toInt < 0)) n e ∧
      (n : Rat) * 2 ^ e = v / 65536

theorem encodesFixed_of_representable {a : Word} {v : Rat} (hm : m ≠ 0) (h : Representable .binary32 m e)
    (hbits : toBinary32 a = bitsF .binary32 (.finite (decide (a.toInt < 0)) m e)) (hv : (m : Rat) * 2 ^ e = v / 65536) :
    EncodesFixed a v := by
  obtain ⟨n, k, hval, hexact⟩ := exists_value_bitsF (decide (a.toInt < 0)) hm h
  exact ⟨hbits ▸ toNat_bitsF_binary32_lt _ hm h, n, k, hbits ▸ hval, hexact.trans hv⟩

theorem toBinary32_zero : toBinary32 0#32 = 0#64 :=
  (toBinary32_of_short 0#32 (by decide)).trans (bitsF_zero .binary32 _ (-16))

theorem encodesFixed_zero : EncodesFixed 0#32 0 := by
  refine ⟨by simp [toBinary32_zero], 0, minExp .binary32, ?_, by simp⟩
  rw [toBinary32_zero, valF_zero]
  rfl

theorem encodesFixed_of_short (a : Word) (h : a.toInt.natAbs < 2 ^ 24) : EncodesFixed a a.toInt.natAbs := by
  by_cases ha : a = 0#32
  · subst ha
    simpa using encodesFixed_zero
  · refine encodesFixed_of_representable (natAbs_toInt_ne_zero ha) (representable_fixed h) (toBinary32_of_short a h) ?_
    rw [show (2 : Rat) ^ (-16 : Int) = 1 / 65536 by norm_num]
    ring

theorem encodesFixed_of_long (a : Word) {k : Nat} (h : bitLength a.toInt.natAbs = 24 + k) :
    EncodesFixed a (roundEven a.toInt.natAbs k * 2 ^ k) := by
  have hk : k ≤ 8 := by
    have hlen : bitLength a.toInt.natAbs ≤ 32 := bitLength_le_iff.mpr ((natAbs_toInt_le a).trans_lt (by decide))
    omega
  obtain ⟨hlow, hhigh⟩ := roundEven_bounds (p := 23) h
  have hbias : bias .binary32 = 127 := rfl
  have hmin : minExp .binary32 = -149 := rfl
  have hfrac : fracBits .binary32 = 23 := rfl
  obtain ⟨n, e, hn, hrep, hvalue, hbits⟩ := exists_bitsF_rne (f := .binary32) (e := k - 16) (decide (a.toInt < 0))
    (show roundEven a.toInt.natAbs k ≠ 0 by omega) hhigh (by omega) (by omega)
  refine encodesFixed_of_representable hn hrep ((toBinary32_of_long a h hk).trans hbits) ?_
  rw [hvalue, zpow_sub₀ two_ne_zero, zpow_natCast]
  norm_num
  ring

/-- Settles O50: with k bits beyond 24, m is the magnitude rounded to even at 2^k. -/
theorem fixedToBinary32RoundsToEven : Obligations.FixedToBinary32RoundsToEven := by
  intro s a
  have hzero : a = 0#32 → toBinary32 a = 0#64 := fun h => h ▸ toBinary32_zero
  obtain hshort | hlong := lt_or_ge a.toInt.natAbs (2 ^ 24)
  · obtain ⟨hlt, hval⟩ := encodesFixed_of_short a hshort
    refine ⟨toBinary32 a, a.toInt.natAbs, 0, answers_xtos a s, hlt, hzero, by simpa using hval, hshort.le,
      fun _ => ⟨rfl, rfl⟩, fun h => absurd hshort (not_lt.mpr h), by simp, fun h => absurd h (lt_irrefl 0)⟩
  · obtain ⟨k, hlen⟩ := Nat.exists_eq_add_of_le (lt_bitLength_iff.mpr hlong).le
    obtain ⟨hlt, hval⟩ := encodesFixed_of_long a hlen
    obtain ⟨hmlow, hmhigh⟩ := roundEven_bounds (p := 23) hlen
    obtain ⟨halow, hahigh⟩ := bitLength_bounds (show bitLength a.toInt.natAbs = 23 + k + 1 by omega)
    obtain ⟨hnear, heven⟩ := roundEven_nearest a.toInt.natAbs k
    refine ⟨toBinary32 a, roundEven a.toInt.natAbs k, k, answers_xtos a s, hlt, hzero, hval, hmhigh,
      fun h => absurd hlong (not_le.mpr h), fun _ => ⟨hmlow, ?_, ?_⟩, hnear, fun _ => heven⟩
    · rwa [← pow_add]
    · rwa [← pow_add, show 24 + k = 23 + k + 1 by omega]

end Sys2Proof.Machine

end

/-! ### 41_rounding.md: FLOOR and CEIL (R63 to R65), and who reads NO_ROUNDING (R61) -/

section

namespace Sys2Proof.Machine

/-! #### The fraction of a word -/

/-- The low 16 bits are the remainder of the signed value, whatever the sign. -/
theorem toInt_emod_65536 (a : Word) : a.toInt % 65536 = (a.toNat % 65536 : Nat) := by
  rw [BitVec.toInt_eq_toNat_cond]
  split <;> omega

theorem and_fractionMask_eq_zero_iff (a : Word) : a &&& 0x0000FFFF#32 = 0#32 ↔ a.toNat % 65536 = 0 := by
  have hmask : a.toNat &&& 0xFFFF = a.toNat % 65536 := Nat.and_two_pow_sub_one_eq_mod a.toNat 16
  simp [← BitVec.toNat_inj, hmask]

/-- Clearing the low 16 bits is an arithmetic shift right by 16 and a shift back. -/
theorem floorResult_eq_shifts (a : Word) : floorResult a = a.sshiftRight 16 <<< 16 := by
  have hmask : ∀ i : Fin 32, (0xFFFF0000#32)[i] = decide (16 ≤ i.val) := by decide
  ext i hi
  have hbit : (0xFFFF0000#32)[i] = decide (16 ≤ i) := hmask ⟨i, hi⟩
  obtain hlow | hhigh := lt_or_ge i 16
  · simp [floorResult, hbit, hlow]
  · have hback : 16 + (i - 16) = i := by omega
    simp [floorResult, hbit, hi, hhigh, hhigh.not_gt, hback, BitVec.getElem_sshiftRight]

/-! #### What FLOOR and CEIL answer -/

/-- R63: the multiple of 65536 at or below a. -/
theorem floorResult_eq_toWord (a : Word) : floorResult a = toWord (a.toInt / 65536 * 65536) := by
  have hshift : (a.sshiftRight 16).toInt = a.toInt / 65536 := by
    rw [BitVec.toInt_sshiftRight, Int.shiftRight_eq_div_pow]
    rfl
  rw [floorResult_eq_shifts, ← toWord_mul_65536, hshift]

theorem ceilResult_of_fraction_zero {a : Word} (h : a.toNat % 65536 = 0) : ceilResult a = floorResult a :=
  if_pos ((and_fractionMask_eq_zero_iff a).mpr h)

theorem ceilResult_of_fraction_ne_zero {a : Word} (h : a.toNat % 65536 ≠ 0) : ceilResult a = floorResult a + one :=
  if_neg ((and_fractionMask_eq_zero_iff a).not.mpr h)

/-- R64: the multiple of 65536 at or above a, modulo 2^32. -/
theorem ceilResult_eq_toWord (a : Word) : ceilResult a = toWord (-(-a.toInt / 65536) * 65536) := by
  have hfrac := toInt_emod_65536 a
  by_cases h : a.toNat % 65536 = 0
  · rw [ceilResult_of_fraction_zero h, floorResult_eq_toWord]
    congr 1
    omega
  · have hup : -(-a.toInt / 65536) * 65536 = a.toInt / 65536 * 65536 + 65536 := by omega
    rw [ceilResult_of_fraction_ne_zero h, floorResult_eq_toWord, hup, toWord, toWord, BitVec.ofInt_add]
    rfl

theorem toInt_floorResult (a : Word) : (floorResult a).toInt = a.toInt / 65536 * 65536 := by
  have hlow := BitVec.le_toInt a
  have hhigh := BitVec.toInt_lt (x := a)
  rw [floorResult_eq_toWord, toInt_toWord] <;> omega

/-- CEIL does not wrap up to 0x7FFF0000. -/
theorem toInt_ceilResult {a : Word} (h : a.toInt ≤ 0x7FFF0000) :
    (ceilResult a).toInt = -(-a.toInt / 65536) * 65536 := by
  have hlow := BitVec.le_toInt a
  rw [ceilResult_eq_toWord, toInt_toWord] <;> omega

theorem wordResponse_toWord (v : Int) : wordResponse (toWord v) = plain v := rfl

/-- Settles O55: the two masks are the two roundings, and neither command reads the state. -/
theorem floorAndCeilRoundToIntegers : Obligations.FloorAndCeilRoundToIntegers := by
  refine ⟨unaryAt_of_encode (by decide) (by decide) fun _ => rfl,
    unaryAt_of_encode (by decide) (by decide) fun _ => rfl, fun s a => ⟨?floor, ?ceil⟩⟩
  case floor => rw [← wordResponse_toWord, ← floorResult_eq_toWord]; exact answers_floor a s
  case ceil => rw [← wordResponse_toWord, ← ceilResult_eq_toWord]; exact answers_ceil a s

/-! #### The laws (R65) -/

theorem fraction_floorResult (a : Word) : (floorResult a).toNat % 65536 = 0 := by
  have hfrac := toInt_emod_65536 (floorResult a)
  rw [toInt_floorResult] at hfrac
  omega

theorem fraction_ceilResult (a : Word) : (ceilResult a).toNat % 65536 = 0 := by
  have hfloor := fraction_floorResult a
  by_cases h : a.toNat % 65536 = 0
  · rwa [ceilResult_of_fraction_zero h]
  · have hone : one.toNat = 65536 := rfl
    rw [ceilResult_of_fraction_ne_zero h, BitVec.toNat_add, hone]
    omega

theorem floorResult_of_fraction_zero {a : Word} (h : a.toNat % 65536 = 0) : floorResult a = a := by
  have hfrac := toInt_emod_65536 a
  apply BitVec.eq_of_toInt_eq
  rw [toInt_floorResult]
  omega

theorem floorResult_floorResult (a : Word) : floorResult (floorResult a) = floorResult a :=
  floorResult_of_fraction_zero (fraction_floorResult a)

theorem ceilResult_ceilResult (a : Word) : ceilResult (ceilResult a) = ceilResult a := by
  have h := fraction_ceilResult a
  rw [ceilResult_of_fraction_zero h, floorResult_of_fraction_zero h]

/-- Settles O56: FLOOR takes the fraction away, CEIL adds ONE to that where there is one, and both leave a word without
a fraction as it is. -/
theorem floorAndCeilLaws : Obligations.FloorAndCeilLaws := by
  intro s a
  have hfrac := toInt_emod_65536 a
  have hfloor := toInt_floorResult a
  have hidem := answers_floor (floorResult a) s
  have hidem' := answers_ceil (ceilResult a) s
  rw [floorResult_floorResult] at hidem
  rw [ceilResult_ceilResult] at hidem'
  refine ⟨floorResult a, ceilResult a, answers_floor a s, answers_ceil a s, by omega, by omega,
    ceilResult_of_fraction_zero, fun h => ⟨ceilResult_of_fraction_ne_zero h, fun hle => ?_⟩, hidem, hidem'⟩
  have hceil := toInt_ceilResult hle
  omega

/-! #### NO_ROUNDING (R61) -/

/-- Settles O12: in each of these rows of `responseOf` the policy is absent, or read for OVF_VALUE and SAT_DETECT
alone. -/
theorem roundingFlagIsNotReadByOthers : Obligations.RoundingFlagIsNotReadByOthers := by
  intro i s nr ⟨a, b, h⟩
  refine ⟨_, answersWith_responseOf i s, ?_⟩
  have hflag := answersWith_responseOf i
    { s with cfg := { s.cfg with policy := { s.cfg.policy with noRounding := nr } } }
  obtain rfl | rfl | rfl | rfl | rfl | rfl | rfl | rfl | rfl | rfl | rfl | rfl | rfl := h <;> exact hflag

end Sys2Proof.Machine

end

/-! ### 42_adder.md: fixed_point_adder (R66 to R73) -/

section

namespace Sys2Proof.Machine

/-! #### A core that computes an exact integer, and the three modes on it (R67) -/

/-- The core result of a command whose exact result is the integer `v`: the word of `v`, and whether `v` leaves
[MIN, MAX]. `addCore_eq` and `subCore_eq` tie it to the model. -/
def exactCore (v : Int) : CoreResult := { w := toWord v, ov := outOfRange v }

theorem outOfRange_iff (v : Int) : outOfRange v = true ↔ v < -2 ^ 31 ∨ 2 ^ 31 - 1 < v := by
  simp [outOfRange]

theorem modeW_exactCore (v : Int) : modeW (exactCore v) = plain v := rfl

theorem modeC_exactCore_of_wrapped {p : Policy} (h : p.ovfValue = .wrapped) (v : Int) :
    modeC p (exactCore v) = checked v (outOfRange v) := by
  simp [modeC, exactCore, checked, h]

theorem modeC_exactCore_of_sentinel {p : Policy} (h : p.ovfValue = .sentinel) (v : Int) :
    modeC p (exactCore v) = checked (if outOfRange v then -2 ^ 31 else v) (outOfRange v) := by
  have hmin : minWord = toWord (-2 ^ 31) := rfl
  simp [modeC, exactCore, checked, h, hmin, apply_ite toWord]

/-- In range, the only word that SAT_DETECT = SENTINEL takes for an overflow is that of an exact MIN. -/
theorem saturates_exactCore_iff (p : Policy) (v : Int) :
    saturates p (exactCore v) = true ↔
      v < -2 ^ 31 ∨ 2 ^ 31 - 1 < v ∨ (p.satDetect = .sentinel ∧ v = -2 ^ 31) := by
  cases h : p.satDetect with
  | flag => simp [saturates, h, exactCore, outOfRange_iff]
  | sentinel =>
    obtain hout | ⟨hlow, hhigh⟩ : outOfRange v = true ∨ (-2 ^ 31 ≤ v ∧ v < 2 ^ 31) := by
      rw [outOfRange_iff]; omega
    · have hrange := (outOfRange_iff v).mp hout
      simp only [saturates, h, exactCore, hout, Bool.true_or, true_iff]
      omega
    · have hmin : toWord v = minWord ↔ v = -2 ^ 31 := by
        rw [← BitVec.toInt_inj, toInt_toWord hlow hhigh]
        rfl
      simp [saturates, h, exactCore, outOfRange_iff, hmin, or_assoc]

theorem modeS_of_saturates {p : Policy} {r : CoreResult} (h : saturates p r = true) (clamp : Word) :
    modeS p clamp r = wordResponse clamp :=
  congrArg wordResponse (if_pos h)

theorem modeS_of_not_saturates {p : Policy} {r : CoreResult} (h : ¬ saturates p r = true) (clamp : Word) :
    modeS p clamp r = modeW r :=
  congrArg wordResponse (if_neg h)

theorem clampBySign_of_nonneg {a : Word} (h : 0 ≤ a.toInt) : clampBySign a = toWord (2 ^ 31 - 1) :=
  if_pos (decide_eq_true h)

theorem clampBySign_of_neg {a : Word} (h : a.toInt < 0) : clampBySign a = toWord (-2 ^ 31) :=
  if_neg fun hnonneg => not_le.mpr h (of_decide_eq_true hnonneg)

theorem clampInt_of_inRange {v : Int} (hlow : -2 ^ 31 ≤ v) (hhigh : v ≤ 2 ^ 31 - 1) : clampInt v = v := by
  rw [clampInt, min_eq_right hhigh, max_eq_right hlow]

theorem clampInt_of_le_min {v : Int} (h : v ≤ -2 ^ 31) : clampInt v = -2 ^ 31 :=
  max_eq_left ((min_le_right _ _).trans h)

theorem clampInt_of_max_le {v : Int} (h : 2 ^ 31 - 1 ≤ v) : clampInt v = 2 ^ 31 - 1 := by
  rw [clampInt, min_eq_left h]
  rfl

/-- Clamping by the sign of the first operand (R67) is clamping the exact result, where each saturation lies on the
side of that sign. -/
theorem modeS_clampBySign {p : Policy} {a : Word} {v : Int} (hhigh : 2 ^ 31 - 1 < v → 0 ≤ a.toInt)
    (hlow : v < -2 ^ 31 ∨ (p.satDetect = .sentinel ∧ v = -2 ^ 31) → a.toInt < 0) :
    modeS p (clampBySign a) (exactCore v) = plain (clampInt v) := by
  by_cases h : saturates p (exactCore v) = true
  · rw [modeS_of_saturates h]
    obtain hv | hv | ⟨hsentinel, rfl⟩ := (saturates_exactCore_iff p v).mp h
    · rw [clampBySign_of_neg (hlow (.inl hv)), clampInt_of_le_min hv.le, wordResponse_toWord]
    · rw [clampBySign_of_nonneg (hhigh hv), clampInt_of_max_le hv.le, wordResponse_toWord]
    · rw [clampBySign_of_neg (hlow (.inr ⟨hsentinel, rfl⟩)), clampInt_of_le_min le_rfl, wordResponse_toWord]
  · rw [modeS_of_not_saturates h, modeW_exactCore]
    rw [saturates_exactCore_iff] at h
    rw [clampInt_of_inRange] <;> omega

/-! #### ADDCORE and SUBCORE compute the exact sum and difference (R66) -/

theorem add_eq_toWord (a b : Word) : a + b = toWord (a.toInt + b.toInt) := by
  simp [toWord, BitVec.ofInt_add]

theorem sub_eq_toWord (a b : Word) : a - b = toWord (a.toInt - b.toInt) := by
  rw [← BitVec.toInt_inj, BitVec.toInt_sub, toWord, BitVec.toInt_ofInt]

/-- The sign test of R66 is the exact one. -/
theorem addOverflow_eq (a b : Word) : addOverflow a b (a + b) = outOfRange (a.toInt + b.toInt) := by
  have hsign : addOverflow a b (a + b) = a.saddOverflow b := (BitVec.saddOverflow_eq a b).symm
  rw [hsign, Bool.eq_iff_iff, outOfRange_iff]
  simp only [BitVec.saddOverflow, Bool.or_eq_true, decide_eq_true_eq]
  omega

theorem subOverflow_eq (a b : Word) : subOverflow a b (a - b) = outOfRange (a.toInt - b.toInt) := by
  have hsign : subOverflow a b (a - b) = a.ssubOverflow b := by
    rw [BitVec.ssubOverflow_eq, subOverflow]
    cases a.msb <;> cases b.msb <;> simp
  rw [hsign, Bool.eq_iff_iff, outOfRange_iff]
  simp only [BitVec.ssubOverflow, Bool.or_eq_true, decide_eq_true_eq]
  omega

theorem addCore_eq (a b : Word) : addCore a b = exactCore (a.toInt + b.toInt) := by
  rw [addCore, addOverflow_eq, add_eq_toWord, exactCore]

theorem subCore_eq (a b : Word) : subCore a b = exactCore (a.toInt - b.toInt) := by
  rw [subCore, subOverflow_eq, sub_eq_toWord, exactCore]

/-! #### Wrapping and checked (R68, R69, R71, R72) -/

/-- Settles O24: mode W answers the word of the exact sum or difference. -/
theorem wrappingAddSubIsModular : Obligations.WrappingAddSubIsModular := by
  refine ⟨binaryAt_of_encode (by decide) fun _ _ => rfl, binaryAt_of_encode (by decide) fun _ _ => rfl,
    fun s a b => ⟨?add, ?sub⟩⟩
  case add => rw [← modeW_exactCore, ← addCore_eq]; exact answers_addW a b s
  case sub => rw [← modeW_exactCore, ← subCore_eq]; exact answers_subW a b s

/-- Settles O25: the overflow bit of each core is the exact one, and mode C shows it as V under both OVF_VALUE. -/
theorem checkedAddSubFlagsOverflow : Obligations.CheckedAddSubFlagsOverflow := by
  refine ⟨binaryAt_of_encode (by decide) fun _ _ => rfl, binaryAt_of_encode (by decide) fun _ _ => rfl,
    fun s a b => ?_⟩
  have hadd := answers_addC a b s
  have hsub := answers_subC a b s
  rw [addCore_eq] at hadd
  rw [subCore_eq] at hsub
  refine ⟨fun hwrapped => ?wrapped, fun hsentinel => ?sentinel⟩
  case wrapped => rw [modeC_exactCore_of_wrapped hwrapped] at hadd hsub; exact ⟨hadd, hsub⟩
  case sentinel => rw [modeC_exactCore_of_sentinel hsentinel] at hadd hsub; exact ⟨hadd, hsub⟩

/-! #### Saturating (R70, R73) -/

/-- A sum that leaves the range does so on the side of the first operand's sign, and an exact MIN has a first operand
that is negative, but for 0 + MIN. -/
theorem modeS_addCore {p : Policy} {a b : Word}
    (h : p.satDetect = .sentinel → ¬ (a = 0#32 ∧ b = 0x80000000#32)) :
    modeS p (clampBySign a) (addCore a b) = plain (clampInt (a.toInt + b.toInt)) := by
  have hlow := BitVec.le_toInt b
  have hhigh := BitVec.toInt_lt (x := b)
  rw [addCore_eq]
  refine modeS_clampBySign (by omega) ?_
  rintro (hv | ⟨hsentinel, hv⟩)
  · omega
  · by_contra hneg
    have ha : a.toInt = 0 := by omega
    have hb : b.toInt = -2 ^ 31 := by omega
    exact h hsentinel ⟨BitVec.eq_of_toInt_eq ha, BitVec.eq_of_toInt_eq hb⟩

/-- R70: 0 + MIN is an exact MIN, which SENTINEL takes for an overflow and clamps by the sign of 0. -/
theorem modeS_addCore_zero_min {p : Policy} (h : p.satDetect = .sentinel) :
    modeS p (clampBySign 0#32) (addCore 0#32 0x80000000#32) = plain (2 ^ 31 - 1) := by
  have hsat : saturates p (addCore 0#32 0x80000000#32) = true := by
    rw [addCore_eq, saturates_exactCore_iff]
    exact .inr (.inr ⟨h, rfl⟩)
  rw [modeS_of_saturates hsat, clampBySign_of_nonneg (by decide), wordResponse_toWord]

/-- No difference is an exact MIN where the first operand is not negative: SAT_DETECT does not matter. -/
theorem modeS_subCore (p : Policy) (a b : Word) :
    modeS p (clampBySign a) (subCore a b) = plain (clampInt (a.toInt - b.toInt)) := by
  have hlow := BitVec.le_toInt b
  have hhigh := BitVec.toInt_lt (x := b)
  rw [subCore_eq]
  exact modeS_clampBySign (by omega) (by omega)

/-- Settles O26: mode S clamps the exact result, but for 0 + MIN under SENTINEL. -/
theorem saturatingAddSubClamps : Obligations.SaturatingAddSubClamps := by
  refine ⟨binaryAt_of_encode (by decide) fun _ _ => rfl, binaryAt_of_encode (by decide) fun _ _ => rfl,
    fun s a b => ⟨fun hflag => ?flag, fun hsentinel => ?sentinel, ?sub⟩⟩
  case flag =>
    have hdiffer : s.cfg.policy.satDetect ≠ .sentinel := by simp [hflag]
    rw [← modeS_addCore fun h => absurd h hdiffer]; exact answers_addS a b s
  case sentinel =>
    split_ifs with h
    · obtain ⟨rfl, rfl⟩ := h
      rw [← modeS_addCore_zero_min hsentinel]; exact answers_addS _ _ s
    · rw [← modeS_addCore fun _ => h]; exact answers_addS a b s
  case sub => rw [← modeS_subCore]; exact answers_subS a b s

end Sys2Proof.Machine

end

/-! ### 43_multiplier.md: fixed_point_multiplier (R75 to R80) -/

section

namespace Sys2Proof.Machine

/-! #### MULCORE depends on the exact product alone (R75) -/

/-- The core result for the exact product `p`: the word of the rounded quotient, and whether `p` leaves 48 bits.
`mulCore_eq` ties it to the model. -/
def productCore (noRounding : Bool) (p : Int) : CoreResult :=
  { w := toWord (roundPolicy noRounding p), ov := productOverflows p }

theorem productOverflows_iff (p : Int) : productOverflows p = true ↔ p < -2 ^ 47 ∨ 2 ^ 47 ≤ p := by
  simp [productOverflows]

theorem productOverflows_of_fits {p : Int} (hlow : -2 ^ 47 ≤ p) (hhigh : p < 2 ^ 47) :
    productOverflows p = false := by
  rw [← Bool.not_eq_true, productOverflows_iff]
  omega

/-- The decrement of a negative product makes the carry of bit 15 a rounding of ties away from zero. -/
theorem roundProduct_eq_roundPolicy (noRounding : Bool) (p : Int) :
    roundProduct noRounding p = roundPolicy noRounding p := by
  cases noRounding with
  | true => rfl
  | false =>
    simp only [roundProduct, roundPolicy, roundHalfAway, Bool.false_eq_true, if_false]
    split_ifs <;> omega

theorem product_range (a b : Word) : -2 ^ 62 ≤ a.toInt * b.toInt ∧ a.toInt * b.toInt ≤ 2 ^ 62 := by
  have hmagnitude : (a.toInt * b.toInt).natAbs ≤ 2 ^ 31 * 2 ^ 31 := by
    rw [Int.natAbs_mul]
    exact Nat.mul_le_mul (natAbs_toInt_le a) (natAbs_toInt_le b)
  omega

/-- Bits 63..47 are all 0 for a product in [0, 2^47), and all 1 for one in [-2^47, 0). -/
theorem mulOverflow_ofInt {p : Int} (hlow : -2 ^ 62 ≤ p) (hhigh : p ≤ 2 ^ 62) :
    mulOverflow (BitVec.ofInt 64 p) = productOverflows p := by
  have hbits : ((BitVec.ofInt 64 p).extractLsb' 47 17).toNat = (p % 2 ^ 64).toNat / 2 ^ 47 % 2 ^ 17 := by
    rw [BitVec.extractLsb'_toNat, BitVec.toNat_ofInt, Nat.shiftRight_eq_div_pow]
    rfl
  have hzero : (0x00000#17).toNat = 0 := rfl
  have hones : (0x1FFFF#17).toNat = 0x1FFFF := rfl
  rw [Bool.eq_iff_iff, productOverflows_iff]
  simp only [mulOverflow, Bool.not_eq_true', Bool.or_eq_false_iff, beq_eq_false_iff_ne, ← BitVec.toNat_inj, ne_eq,
    hbits, hzero, hones]
  omega

theorem mulCore_eq (noRounding : Bool) (a b : Word) :
    mulCore noRounding a b = productCore noRounding (a.toInt * b.toInt) := by
  obtain ⟨hlow, hhigh⟩ := product_range a b
  rw [mulCore, roundProduct_eq_roundPolicy, product, fixedOperand, fixedOperand, mulOverflow_ofInt hlow hhigh,
    productCore]

/-! #### Wrapping and checked (R76, R77) -/

theorem modeC_productCore (p : Policy) (v : Int) :
    modeC p (productCore p.noRounding v) =
      checked (if productOverflows v ∧ p.ovfValue = .sentinel then -2 ^ 31 else roundPolicy p.noRounding v)
        (productOverflows v) := by
  have hmin : minWord = toWord (-2 ^ 31) := rfl
  simp only [modeC, productCore, checked, hmin, apply_ite toWord, Bool.and_eq_true, decide_eq_true_eq]

theorem answersWith_mulW (s : State) (a b : Word) :
    AnswersWith (.mulW a b) s (plain (roundPolicy s.cfg.policy.noRounding (a.toInt * b.toInt))) := by
  have h := answers_mulW a b s
  rwa [mulCore_eq] at h

theorem answersWith_mulC (s : State) (a b : Word) :
    AnswersWith (.mulC a b) s
      (checked
        (if productOverflows (a.toInt * b.toInt) ∧ s.cfg.policy.ovfValue = .sentinel then -2 ^ 31
          else roundPolicy s.cfg.policy.noRounding (a.toInt * b.toInt))
        (productOverflows (a.toInt * b.toInt))) := by
  rw [← modeC_productCore, ← mulCore_eq]
  exact answers_mulC a b s

/-- Settles O27: MULCORE's word is that of the rounded product. -/
theorem wrappingMultiplyRounds : Obligations.WrappingMultiplyRounds :=
  ⟨binaryAt_of_encode (by decide) fun _ _ => rfl, answersWith_mulW⟩

/-- Settles O28: the 17-bit test of MULCORE is the exact one, and OVF_VALUE chooses the value it flags. -/
theorem checkedMultiplyFlagsOverflow : Obligations.CheckedMultiplyFlagsOverflow :=
  ⟨binaryAt_of_encode (by decide) fun _ _ => rfl, answersWith_mulC⟩

/-! #### Saturating (R78) -/

theorem clampByAgreement_of_pos {a b : Word} (h : 0 < a.toInt * b.toInt) :
    clampByAgreement a b = toWord (2 ^ 31 - 1) := by
  have hsign : 0 ≤ a.toInt ↔ 0 ≤ b.toInt := by
    obtain ⟨ha, hb⟩ | ⟨ha, hb⟩ := mul_pos_iff.mp h <;> omega
  exact if_pos (beq_iff_eq.mpr (decide_eq_decide.mpr hsign))

theorem clampByAgreement_of_neg {a b : Word} (h : a.toInt * b.toInt < 0) :
    clampByAgreement a b = toWord (-2 ^ 31) := by
  refine if_neg fun hagree => ?_
  have hsign : 0 ≤ a.toInt ↔ 0 ≤ b.toInt := decide_eq_decide.mp (beq_iff_eq.mp hagree)
  obtain ⟨ha, hb⟩ | ⟨ha, hb⟩ := mul_neg_iff.mp h <;> omega

/-- R79: the rounding carry. -/
theorem roundPolicy_of_window {v : Int} (hlow : 2 ^ 47 - 2 ^ 15 ≤ v) (hhigh : v < 2 ^ 47) :
    roundPolicy false v = 2 ^ 31 := by
  simp only [roundPolicy, roundHalfAway, Bool.false_eq_true, if_false]
  split_ifs <;> omega

theorem roundPolicy_range_of_fits {noRounding : Bool} {v : Int} (hlow : -2 ^ 47 ≤ v) (hhigh : v < 2 ^ 47)
    (hwindow : ¬ (noRounding = false ∧ 2 ^ 47 - 2 ^ 15 ≤ v)) :
    -2 ^ 31 ≤ roundPolicy noRounding v ∧ roundPolicy noRounding v < 2 ^ 31 := by
  cases noRounding with
  | true => simp only [roundPolicy, if_true]; omega
  | false =>
    simp only [true_and, not_le] at hwindow
    simp only [roundPolicy, roundHalfAway, Bool.false_eq_true, if_false]
    split_ifs <;> omega

theorem neg_of_roundPolicy_neg {noRounding : Bool} {v : Int} (h : roundPolicy noRounding v < 0) : v < 0 := by
  simp only [roundPolicy, roundHalfAway] at h
  split_ifs at h <;> omega

theorem saturates_of_overflow (p : Policy) {v : Int} (h : v < -2 ^ 47 ∨ 2 ^ 47 ≤ v) :
    saturates p (productCore p.noRounding v) = true := by
  have hov := (productOverflows_iff v).mpr h
  cases hdetect : p.satDetect <;> simp [saturates, hdetect, productCore, hov]

/-- Where no overflow is flagged, only SENTINEL saturates, at the word MIN. -/
theorem saturates_iff_of_fits (p : Policy) {v : Int} (hlow : -2 ^ 47 ≤ v) (hhigh : v < 2 ^ 47) :
    saturates p (productCore p.noRounding v) = true ↔
      p.satDetect = .sentinel ∧ toWord (roundPolicy p.noRounding v) = minWord := by
  have hov := productOverflows_of_fits hlow hhigh
  cases hdetect : p.satDetect <;> simp [saturates, hdetect, productCore, hov]

/-- Outside the window of R79 a product whose word is MIN is negative, and so the clamp is that MIN. -/
theorem modeS_productCore_of_fits (p : Policy) {a b : Word} (hlow : -2 ^ 47 ≤ a.toInt * b.toInt)
    (hhigh : a.toInt * b.toInt < 2 ^ 47)
    (hwindow : ¬ (p.satDetect = .sentinel ∧ p.noRounding = false ∧ 2 ^ 47 - 2 ^ 15 ≤ a.toInt * b.toInt)) :
    modeS p (clampByAgreement a b) (productCore p.noRounding (a.toInt * b.toInt)) =
      plain (roundPolicy p.noRounding (a.toInt * b.toInt)) := by
  by_cases hsat : saturates p (productCore p.noRounding (a.toInt * b.toInt)) = true
  case neg => rw [modeS_of_not_saturates hsat]; rfl
  case pos =>
    obtain ⟨hsentinel, hword⟩ := (saturates_iff_of_fits p hlow hhigh).mp hsat
    obtain ⟨hrlow, hrhigh⟩ := roundPolicy_range_of_fits hlow hhigh fun h => hwindow ⟨hsentinel, h⟩
    have hmin : roundPolicy p.noRounding (a.toInt * b.toInt) = -2 ^ 31 :=
      (toInt_toWord hrlow hrhigh).symm.trans (congrArg BitVec.toInt hword)
    rw [modeS_of_saturates hsat, clampByAgreement_of_neg (neg_of_roundPolicy_neg (hmin.trans_lt (by decide))), hmin,
      wordResponse_toWord]

theorem answersWith_mulS (s : State) (a b : Word) :
    AnswersWith (.mulS a b) s
      (plain
        (if a.toInt * b.toInt < -2 ^ 47 then -2 ^ 31
          else if 2 ^ 47 ≤ a.toInt * b.toInt then 2 ^ 31 - 1
          else if s.cfg.policy.satDetect = .sentinel ∧ s.cfg.policy.noRounding = false ∧
              2 ^ 47 - 2 ^ 15 ≤ a.toInt * b.toInt then 2 ^ 31 - 1
          else roundPolicy s.cfg.policy.noRounding (a.toInt * b.toInt))) := by
  have hanswer := answers_mulS a b s
  rw [mulCore_eq] at hanswer
  split_ifs with hbelow habove hwindow
  · rwa [modeS_of_saturates (saturates_of_overflow _ (.inl hbelow)), clampByAgreement_of_neg (by omega),
      wordResponse_toWord] at hanswer
  · rwa [modeS_of_saturates (saturates_of_overflow _ (.inr habove)), clampByAgreement_of_pos (by omega),
      wordResponse_toWord] at hanswer
  · obtain ⟨hsentinel, hround, hcarry⟩ := hwindow
    have hmin : toWord (roundPolicy s.cfg.policy.noRounding (a.toInt * b.toInt)) = minWord := by
      rw [hround, roundPolicy_of_window hcarry (not_le.mp habove)]
      rfl
    have hsat := (saturates_iff_of_fits s.cfg.policy (not_lt.mp hbelow) (not_le.mp habove)).mpr ⟨hsentinel, hmin⟩
    rwa [modeS_of_saturates hsat, clampByAgreement_of_pos (by omega), wordResponse_toWord] at hanswer
  · rwa [modeS_productCore_of_fits _ (not_lt.mp hbelow) (not_le.mp habove) hwindow] at hanswer

/-- Settles O29: each branch is a case of what makes mode S saturate, and of the sign the clamp reads. -/
theorem saturatingMultiplyClamps : Obligations.SaturatingMultiplyClamps :=
  ⟨binaryAt_of_encode (by decide) fun _ _ => rfl, answersWith_mulS⟩

/-! #### The rounding carry (R79) -/

theorem answersWith_mulC_of_fits (s : State) {a b : Word} (hlow : -2 ^ 47 ≤ a.toInt * b.toInt)
    (hhigh : a.toInt * b.toInt < 2 ^ 47) :
    AnswersWith (.mulC a b) s (plain (roundPolicy s.cfg.policy.noRounding (a.toInt * b.toInt))) := by
  have hanswer := answersWith_mulC s a b
  rwa [productOverflows_of_fits hlow hhigh, if_neg (by simp)] at hanswer

/-- The product of `a` and `b` is answered by `r` in all three modes. -/
def MulAnswers (a b : Word) (s : State) (r : Response) : Prop :=
  AnswersWith (.mulW a b) s r ∧ AnswersWith (.mulC a b) s r ∧ AnswersWith (.mulS a b) s r

/-- R80 item 5, and the same for MUL.S: below the window a product that fits is rounded in every mode. -/
theorem mulAnswers_roundPolicy (s : State) {a b : Word} (hlow : -2 ^ 47 ≤ a.toInt * b.toInt)
    (hhigh : a.toInt * b.toInt < 2 ^ 47 - 2 ^ 15) :
    MulAnswers a b s (plain (roundPolicy s.cfg.policy.noRounding (a.toInt * b.toInt))) := by
  have hsaturating := answersWith_mulS s a b
  rw [if_neg (by omega), if_neg (by omega), if_neg (by omega)] at hsaturating
  exact ⟨answersWith_mulW s a b, answersWith_mulC_of_fits s hlow (by omega), hsaturating⟩

/-- Settles O30: in the window the carry gives the word of 2^31, which SENTINEL alone takes for an overflow; the other
products are below it. -/
theorem roundingCarryWindow : Obligations.RoundingCarryWindow := by
  intro s a b hround
  refine ⟨fun hlow hhigh => ?window, fun hbelow => ?below, fun hmin => ?min, fun hflagged => ?flagged⟩
  case window =>
    have hcarry : roundPolicy s.cfg.policy.noRounding (a.toInt * b.toInt) = 2 ^ 31 := by
      rw [hround, roundPolicy_of_window hlow (by omega)]
    have hwrapping := answersWith_mulW s a b
    have hchecked := answersWith_mulC_of_fits s (a := a) (b := b) (by omega) (by omega)
    have hsaturating := answersWith_mulS s a b
    rw [hcarry] at hwrapping hchecked hsaturating
    rw [if_neg (by omega), if_neg (by omega)] at hsaturating
    refine ⟨hwrapping, hchecked, fun hflag => ?_, fun hsentinel => ?_⟩
    · rwa [if_neg (by simp [hflag])] at hsaturating
    · rwa [if_pos ⟨hsentinel, hround, hlow⟩] at hsaturating
  case below =>
    have hanswers := mulAnswers_roundPolicy s (a := a) (b := b) (by omega) (by omega)
    rwa [hround, hbelow] at hanswers
  case min =>
    have hanswers := mulAnswers_roundPolicy s (a := a) (b := b) (by omega) (by omega)
    rwa [hround, hmin] at hanswers
  case flagged =>
    have hchecked := answersWith_mulC s a b
    rw [(productOverflows_iff _).mpr (.inl hflagged)] at hchecked
    exact ⟨_, hchecked⟩

/-! #### The laws (R80) -/

theorem exec_eq_of_answersWith {i j : Instr} {s : State} {r : Response} (hi : AnswersWith i s r)
    (hj : AnswersWith j s r) : exec i s = exec j s :=
  hi.trans hj.symm

/-- A word by a multiple n of ONE answers the integer product in every mode, where that is in range. -/
theorem mulAnswers_integer (s : State) (a : Word) {b : Word} {n : Int} (hb : b.toInt = n * 65536)
    (hlow : -2 ^ 31 ≤ a.toInt * n) (hhigh : a.toInt * n < 2 ^ 31) : MulAnswers a b s (plain (a.toInt * n)) := by
  have hproduct : a.toInt * b.toInt = a.toInt * n * 65536 := by rw [hb, mul_assoc]
  have hanswers := mulAnswers_roundPolicy s (a := a) (b := b) (by omega) (by omega)
  rwa [hproduct, roundPolicy_mul_65536] at hanswers

/-- R80: MIN by -ONE. -/
theorem answersWith_mulC_min_neg_one (s : State) :
    AnswersWith (.mulC 0x80000000#32 0xFFFF0000#32) s ⟨0x80000000#64, true, false⟩ := by
  have hproduct : (0x80000000#32).toInt * (0xFFFF0000#32).toInt = 2 ^ 31 * 65536 := by decide
  have hanswer := answersWith_mulC s 0x80000000#32 0xFFFF0000#32
  rw [hproduct, roundPolicy_mul_65536, (productOverflows_iff _).mpr (by decide)] at hanswer
  split_ifs at hanswer <;> exact hanswer

/-- Settles O31: the answers are functions of the product, and a product by ONE, -ONE or 0 is exact. -/
theorem multiplierLaws : Obligations.MultiplierLaws := by
  intro s a b
  have hlow := BitVec.le_toInt a
  have hhigh := BitVec.toInt_lt (x := a)
  have hwrapping := answersWith_mulW s b a
  have hchecked := answersWith_mulC s b a
  have hsaturating := answersWith_mulS s b a
  rw [mul_comm] at hwrapping hchecked hsaturating
  obtain ⟨hone, hone', hone''⟩ :=
    mulAnswers_integer s a (b := 0x00010000#32) (n := 1) (by decide) (by omega) (by omega)
  obtain ⟨hzero, hzero', hzero''⟩ :=
    mulAnswers_integer s a (b := 0#32) (n := 0) (by decide) (by omega) (by omega)
  rw [mul_one] at hone hone' hone''
  rw [mul_zero] at hzero hzero' hzero''
  refine ⟨exec_eq_of_answersWith (answersWith_mulW s a b) hwrapping,
    exec_eq_of_answersWith (answersWith_mulC s a b) hchecked,
    exec_eq_of_answersWith (answersWith_mulS s a b) hsaturating, hone, hone', hone'', fun hmin => ?neg,
    answersWith_mulC_min_neg_one s, hzero, hzero', hzero''⟩
  have hne : a.toInt ≠ -2 ^ 31 := fun h => hmin (BitVec.eq_of_toInt_eq h)
  have hneg := mulAnswers_integer s a (b := 0xFFFF0000#32) (n := -1) (by decide) (by omega) (by omega)
  rwa [mul_neg_one] at hneg

end Sys2Proof.Machine

end

/-! ### 44_divider.md: restoring_divider (R81 to R92) -/

section

namespace Sys2Proof.Machine

/-! #### The engine's words and masks (R82, R9) -/

theorem low32_of_lt {n : Nat} (h : n < 2 ^ 32) : low32 n = n := Nat.mod_eq_of_lt h

theorem low64_of_lt {n : Nat} (h : n < 2 ^ 64) : low64 n = n := Nat.mod_eq_of_lt h

theorem sub32_of_le {x y : Nat} (hx : x < 2 ^ 32) (hle : y ≤ x) : sub32 x y = x - y := by
  rw [sub32, low32_of_lt (n := y) (by omega), low32]
  omega

theorem magnitude_le (w : Word) : magnitude w ≤ 2 ^ 31 := by
  have hlow := BitVec.le_toInt w
  have hhigh := BitVec.toInt_lt (x := w)
  simp only [magnitude, fixedOperand]
  omega

theorem magnitude_pos {w : Word} (h : w ≠ 0#32) : 0 < magnitude w :=
  Nat.pos_of_ne_zero (natAbs_toInt_ne_zero h)

/-- A mask of `n` bits above bit `k` meets no bit of an (n + k)-bit value exactly where the value is below 2^k. -/
theorem and_highMask_eq_zero_iff {x n k : Nat} (hx : x < 2 ^ (n + k)) :
    x &&& (2 ^ n - 1) * 2 ^ k = 0 ↔ x < 2 ^ k := by
  have hlow : (x &&& (2 ^ n - 1) * 2 ^ k) % 2 ^ k = 0 := by
    rw [Nat.and_mod_two_pow, Nat.mul_mod_left, Nat.and_zero]
  have hhigh : (x &&& (2 ^ n - 1) * 2 ^ k) / 2 ^ k = x / 2 ^ k := by
    rw [Nat.and_div_two_pow, Nat.mul_div_cancel _ (Nat.two_pow_pos k), Nat.and_two_pow_sub_one_eq_mod,
      Nat.mod_eq_of_lt (Nat.div_lt_of_lt_mul (by rwa [mul_comm, ← pow_add]))]
  rw [← Nat.div_eq_zero_iff_lt (Nat.two_pow_pos k), ← hhigh]
  constructor
  · intro h
    rw [h, Nat.zero_div]
  · intro h
    rw [← Nat.div_add_mod (x &&& _) (2 ^ k), h, hlow, mul_zero]

/-- The seed's test (R83) is a comparison. -/
theorem and_top12_eq_zero_iff {d : Nat} (hd : d < 2 ^ 32) : d &&& 0xFFF00000 = 0 ↔ d < 2 ^ 20 :=
  and_highMask_eq_zero_iff (n := 12) (k := 20) hd

/-- The overflow test of a pass (R85): dv has a bit among its top `k` bits where dv x 2^k leaves 32 bits. -/
theorem and_topMask_ne_zero {dv k : Nat} (hdv : dv < 2 ^ 32) (hk : k ≤ 32) :
    ((dv &&& (0xFFFFFFFF - 0xFFFFFFFF / 2 ^ k)) != 0) = decide (2 ^ 32 ≤ dv * 2 ^ k) := by
  obtain ⟨j, hj⟩ := Nat.exists_eq_add_of_le hk
  have hpow : 2 ^ k * 2 ^ j = 2 ^ 32 := by rw [← pow_add, ← hj]
  have hshifted : 0xFFFFFFFF / 2 ^ k = 2 ^ j - 1 := by
    simpa [hpow] using Nat.mul_sub_div 0 (2 ^ k) (2 ^ j) (by positivity)
  have hmask : 0xFFFFFFFF - 0xFFFFFFFF / 2 ^ k = (2 ^ k - 1) * 2 ^ j := by
    have hpos := Nat.two_pow_pos j
    rw [hshifted, Nat.sub_mul, one_mul, hpow]
    omega
  have hiff : 2 ^ 32 ≤ dv * 2 ^ k ↔ ¬ dv < 2 ^ j := by
    rw [← hpow, mul_comm, Nat.mul_le_mul_right_iff (Nat.two_pow_pos k), not_lt]
  rw [hj] at hdv
  rw [hmask, Bool.eq_iff_iff, bne_iff_ne, decide_eq_true_iff, hiff, ne_eq, and_highMask_eq_zero_iff hdv]

theorem mul_two_pow_clz32_lt {x sh : Nat} (hx : x < 2 ^ 32) (hsh : sh ≤ clz32 x) : x * 2 ^ sh < 2 ^ 32 := by
  by_cases hzero : x = 0
  · simp [hzero]
  · rw [clz32, if_neg hzero] at hsh
    have hlog : x.log2 < 32 := (Nat.log2_lt hzero).mpr hx
    calc x * 2 ^ sh < 2 ^ (x.log2 + 1) * 2 ^ sh :=
          Nat.mul_lt_mul_of_pos_right Nat.lt_log2_self (Nat.two_pow_pos sh)
      _ = 2 ^ (x.log2 + 1 + sh) := (pow_add _ _ _).symm
      _ ≤ 2 ^ 32 := Nat.pow_le_pow_right (by decide) (by omega)

/-! #### What the two loops keep (R84, R85) -/

/-- What the engine's main loop still has to add to q: floor(rem x 2^bp / d), or nothing once the budget is spent. -/
def DivState.pending (e : DivState) : Nat := if e.bp < 0 then 0 else e.rem * 2 ^ e.bp.toNat / e.d

theorem DivState.pending_of_bp_eq {e : DivState} {n : Nat} (h : e.bp = n) : e.pending = e.rem * 2 ^ n / e.d := by
  rw [pending, if_neg (by omega), h, Int.toNat_natCast]

/-- The engine's variables fit their words, they owe the quotient `total`, and `flag` says whether a pass has flagged
or what is still to be added reaches 2^32. -/
structure DivState.Owes (total : Nat) (flag : Bool) (e : DivState) : Prop where
  rem_lt : e.rem < 2 ^ 32
  d_pos  : 0 < e.d
  d_le   : e.d ≤ 2 ^ 31
  bp_le  : e.bp ≤ 17
  total  : e.q + e.pending = total
  flag   : (e.ovf || decide (2 ^ 32 ≤ e.pending)) = flag

section Loops

variable {total : Nat} {flag : Bool} {e : DivState}

theorem stripStep_pending (hd : e.d % 16 = 0) (hbp : 4 ≤ e.bp) :
    DivState.pending { e with d := e.d / 16, bp := e.bp - 4 } = e.pending := by
  obtain ⟨n, hn⟩ : ∃ n : Nat, e.bp = n + 4 := ⟨(e.bp - 4).toNat, by omega⟩
  rw [DivState.pending_of_bp_eq (n := n) (by show e.bp - 4 = n; omega),
    DivState.pending_of_bp_eq (n := n + 4) (by omega), pow_add, ← mul_assoc]
  calc e.rem * 2 ^ n / (e.d / 16) = e.rem * 2 ^ n * 2 ^ 4 / (e.d / 16 * 16) :=
        (Nat.mul_div_mul_right _ _ (by decide)).symm
    _ = e.rem * 2 ^ n * 2 ^ 4 / e.d := by rw [Nat.div_mul_cancel (Nat.dvd_of_mod_eq_zero hd)]

theorem DivState.Owes.after_strip {n : Nat} (h : e.Owes total flag) : (divStrip n e).Owes total flag := by
  induction n generalizing e with
  | zero => exact h
  | succ n ih =>
    rw [divStrip]
    split
    case isFalse => exact h
    case isTrue hstrip =>
      obtain ⟨hnibble, hbp⟩ := hstrip
      have hd : e.d % 16 = 0 := by rwa [← Nat.and_two_pow_sub_one_eq_mod e.d 4]
      have hpending := stripStep_pending hd hbp
      have hpos := h.d_pos
      have hle := h.d_le
      exact ih
        { rem_lt := h.rem_lt
          d_pos := by show 0 < e.d / 16; omega
          d_le := by show e.d / 16 ≤ 2 ^ 31; omega
          bp_le := by have := h.bp_le; show e.bp - 4 ≤ 17; omega
          total := by rw [hpending]; exact h.total
          flag := by rw [hpending]; exact h.flag }

/-- The shift of a pass (R85). -/
def DivState.shift (e : DivState) : Nat := min (clz32 e.rem) e.bp.toNat

/-- The quotient digit of a pass, `dv` in R85. -/
def DivState.digit (e : DivState) : Nat := e.rem * 2 ^ e.shift / e.d

/-- The remainder of a pass's division. -/
def DivState.rest (e : DivState) : Nat := e.rem * 2 ^ e.shift % e.d

/-- The place of a pass's digit in q: the budget after the shift. -/
def DivState.bits (e : DivState) : Nat := e.bp.toNat - e.shift

theorem DivState.shifted_lt (h : e.rem < 2 ^ 32) : e.rem * 2 ^ e.shift < 2 ^ 32 :=
  mul_two_pow_clz32_lt h (min_le_left _ _)

theorem DivState.rest_mul_div_lt (h : 0 < e.d) : e.rest * 2 ^ e.bits / e.d < 2 ^ e.bits :=
  Nat.div_lt_of_lt_mul (Nat.mul_lt_mul_of_pos_right (Nat.mod_lt _ h) (Nat.two_pow_pos _))

/-- One pass of restoring division: what is owed is the digit at its place and what the rest still gives. -/
theorem DivState.pending_eq_digit (hd : 0 < e.d) (hbp : 0 ≤ e.bp) :
    e.pending = e.digit * 2 ^ e.bits + e.rest * 2 ^ e.bits / e.d := by
  have hbits : e.bp.toNat = e.shift + e.bits := (Nat.add_sub_of_le (min_le_right _ _)).symm
  have hsplit : e.rem * 2 ^ e.bp.toNat = e.d * (e.digit * 2 ^ e.bits) + e.rest * 2 ^ e.bits := by
    rw [hbits, pow_add, ← mul_assoc, ← mul_assoc, ← add_mul, DivState.digit, DivState.rest, Nat.div_add_mod]
  rw [DivState.pending_of_bp_eq (Int.toNat_of_nonneg hbp).symm, hsplit, Nat.mul_add_div hd]

/-- A pass, where nothing of it leaves its word. -/
theorem divPass_eq (h : e.Owes total flag) (hbp : 0 ≤ e.bp) (htotal : total < 2 ^ 64) :
    divPass e =
      { rem := e.rest * 2, d := e.d, q := e.q + e.digit * 2 ^ e.bits, bp := (e.bits : Int) - 1,
        ovf := e.ovf || decide (2 ^ 32 ≤ e.digit * 2 ^ e.bits) } := by
  have hshifted := DivState.shifted_lt h.rem_lt
  have hrest : e.rest < e.d := Nat.mod_lt _ h.d_pos
  have hd := h.d_le
  have hsum := h.total
  rw [DivState.pending_eq_digit h.d_pos hbp] at hsum
  have hdigit : e.q + e.digit * 2 ^ e.bits ≤ total := by rw [← hsum, ← add_assoc]; exact Nat.le_add_right _ _
  have hbits : e.bits ≤ 32 := by have := h.bp_le; simp only [DivState.bits]; omega
  have hflag := and_topMask_ne_zero (dv := e.digit) ((Nat.div_le_self _ _).trans_lt hshifted) hbits
  have hrem : low32 (e.rest * 2) = e.rest * 2 := low32_of_lt (by omega)
  have hq : low64 (e.q + e.digit * 2 ^ e.bits) = e.q + e.digit * 2 ^ e.bits := low64_of_lt (hdigit.trans_lt htotal)
  rw [← hflag, ← hq, ← hrem, DivState.digit, DivState.rest, ← low32_of_lt hshifted]
  rfl

theorem divPass_bp_lt (hbp : 0 ≤ e.bp) : (divPass e).bp < e.bp := by
  show ((e.bp.toNat - e.shift : Nat) : Int) - 1 < e.bp
  omega

theorem divPass_pending (h : e.Owes total flag) (hbp : 0 ≤ e.bp) (htotal : total < 2 ^ 64) :
    (divPass e).pending = e.rest * 2 ^ e.bits / e.d := by
  rw [divPass_eq h hbp htotal, DivState.pending]
  cases e.bits with
  | zero =>
    have hrest : e.rest / e.d = 0 := Nat.div_eq_of_lt (Nat.mod_lt _ h.d_pos)
    simp [hrest]
  | succ k =>
    have hnonneg : ¬ ((k + 1 : Nat) : Int) - 1 < 0 := by omega
    have hbits : (((k + 1 : Nat) : Int) - 1).toNat = k := by omega
    simp only [hnonneg, if_false, hbits, pow_succ', mul_assoc]

/-- Below 2^k nothing carries a multiple of 2^k up to 2^n. -/
theorem two_pow_le_mul_add_iff {n k m s : Nat} (hk : k ≤ n) (hs : s < 2 ^ k) :
    2 ^ n ≤ m * 2 ^ k + s ↔ 2 ^ n ≤ m * 2 ^ k := by
  obtain ⟨j, rfl⟩ := Nat.exists_eq_add_of_le' hk
  rw [pow_add, Nat.mul_le_mul_right_iff (Nat.two_pow_pos k), ← Nat.le_div_iff_mul_le (Nat.two_pow_pos k),
    add_comm, Nat.add_mul_div_right _ _ (Nat.two_pow_pos k), Nat.div_eq_of_lt hs, zero_add]

/-- A pass flags exactly a debt of 2^32 or more, and leaves less than 2^17 to add. -/
theorem DivState.Owes.after_pass (h : e.Owes total flag) (hbp : 0 ≤ e.bp) (htotal : total < 2 ^ 64) :
    (divPass e).Owes total flag := by
  have hpending := divPass_pending h hbp htotal
  have hdebt := DivState.pending_eq_digit h.d_pos hbp
  have hrest : e.rest < e.d := Nat.mod_lt _ h.d_pos
  have hrestSmall := DivState.rest_mul_div_lt h.d_pos
  have hd := h.d_le
  have hlt := divPass_bp_lt hbp
  have hle := h.bp_le
  have hbits : e.bits ≤ 17 := by simp only [DivState.bits]; omega
  have hplace : 2 ^ e.bits ≤ 2 ^ 17 := Nat.pow_le_pow_right (by decide) hbits
  have hflag : 2 ^ 32 ≤ e.pending ↔ 2 ^ 32 ≤ e.digit * 2 ^ e.bits := by
    rw [hdebt, two_pow_le_mul_add_iff (by omega) hrestSmall]
  have hnone : ¬ 2 ^ 32 ≤ (divPass e).pending := by rw [hpending]; omega
  have hpass := divPass_eq h hbp htotal
  exact
    { rem_lt := by rw [hpass]; show e.rest * 2 < 2 ^ 32; omega
      d_pos := h.d_pos
      d_le := hd
      bp_le := by omega
      total := by rw [hpending, hpass, ← h.total, hdebt, add_assoc]
      flag := by rw [decide_eq_false hnone, Bool.or_false, hpass, ← decide_eq_decide.mpr hflag]; exact h.flag }

theorem DivState.Owes.after_loop {n : Nat} (h : e.Owes total flag) (htotal : total < 2 ^ 64) :
    (divLoop n e).Owes total flag := by
  induction n generalizing e with
  | zero => exact h
  | succ n ih =>
    rw [divLoop]
    split
    case isFalse => exact h
    case isTrue hrun => exact ih (h.after_pass hrun.2 htotal)

/-- R93: with fuel for every bit position the loop ends with nothing left to add. -/
theorem divLoop_pending_eq_zero {n : Nat} (hfuel : e.bp < n) : (divLoop n e).pending = 0 := by
  induction n generalizing e with
  | zero => exact if_pos hfuel
  | succ n ih =>
    rw [divLoop]
    split
    case isTrue hrun =>
      have hlt := divPass_bp_lt hrun.2
      exact ih (by omega)
    case isFalse hstop =>
      obtain hrem | hbp : e.rem = 0 ∨ e.bp < 0 := by omega
      · simp [DivState.pending, hrem]
      · exact if_pos hbp

/-- Strip and main loop pay the debt: q is the whole of it, and ovf the flag. -/
theorem DivState.Owes.paid (h : e.Owes total flag) (htotal : total < 2 ^ 64) :
    (divLoop 18 (divStrip 4 e)).q = total ∧ (divLoop 18 (divStrip 4 e)).ovf = flag := by
  have hstrip := h.after_strip (n := 4)
  have hbp := hstrip.bp_le
  have hend := hstrip.after_loop (n := 18) htotal
  have hq := hend.total
  have hovf := hend.flag
  rw [divLoop_pending_eq_zero (by omega)] at hq hovf
  exact ⟨hq, by simpa using hovf⟩

end Loops

/-! #### The seed, and the engine's quotient (R83, R92) -/

/-- The seed (R83): the quotient by the next multiple of 2^17 above |b|. -/
def seedQuotient (a b : Word) : Nat := magnitude a / (magnitude b / 2 ^ 17 + 1)

/-- What the truncation of the seed's partial product (R83) leaves too much in rem, in units of 2^-17; nothing where
the seed is skipped. -/
def seedExcess (a b : Word) : Nat :=
  if magnitude b < 2 ^ 20 then 0 else seedQuotient a b * magnitude b % 2 ^ 17

/-- The quotient with 17 fraction bits that the engine computes. -/
def engineQuotient (a b : Word) : Nat := (magnitude a * 2 ^ 17 + seedExcess a b) / magnitude b

theorem seedExcess_lt (a b : Word) : seedExcess a b < 2 ^ 17 := by
  rw [seedExcess]
  split
  · decide
  · exact Nat.mod_lt _ (by decide)

theorem engineQuotient_of_small {a b : Word} (h : magnitude b < 2 ^ 20) :
    engineQuotient a b = magnitude a * 2 ^ 17 / magnitude b := by
  rw [engineQuotient, seedExcess, if_pos h, add_zero]

theorem engineQuotient_le (a b : Word) : engineQuotient a b ≤ 2 ^ 48 + 2 ^ 17 := by
  have ha := magnitude_le a
  have hexcess := seedExcess_lt a b
  exact (Nat.div_le_self _ _).trans (by omega)

theorem engineQuotient_lt_of_large {a b : Word} (h : 2 ^ 20 ≤ magnitude b) : engineQuotient a b < 2 ^ 32 - 1 := by
  have ha := magnitude_le a
  have hexcess := seedExcess_lt a b
  exact Nat.div_lt_of_lt_mul (by omega)

/-- The seed's subtraction (R83) never wraps. -/
theorem seedQuotient_mul_le (a b : Word) : seedQuotient a b * magnitude b ≤ magnitude a * 2 ^ 17 :=
  calc seedQuotient a b * magnitude b ≤ seedQuotient a b * ((magnitude b / 2 ^ 17 + 1) * 2 ^ 17) :=
        Nat.mul_le_mul_left _ (by omega)
    _ = seedQuotient a b * (magnitude b / 2 ^ 17 + 1) * 2 ^ 17 := (mul_assoc _ _ _).symm
    _ ≤ magnitude a * 2 ^ 17 := Nat.mul_le_mul_right _ (Nat.div_mul_le_self _ _)

theorem divSeed_of_small {a b : Word} (h : magnitude b < 2 ^ 20) : divSeed (divInit a b) = divInit a b :=
  if_pos ((and_top12_eq_zero_iff (by show magnitude b < 2 ^ 32; omega)).mpr h)

theorem divSeed_of_large {a b : Word} (h : 2 ^ 20 ≤ magnitude b) :
    divSeed (divInit a b) =
      { divInit a b with
        q := seedQuotient a b
        rem := magnitude a - seedQuotient a b * magnitude b / 2 ^ 17 } := by
  have ha := magnitude_le a
  have hb := magnitude_le b
  have hproduct := seedQuotient_mul_le a b
  have hmask : ¬ (divInit a b).d &&& 0xFFF00000 = 0 := by
    rw [and_top12_eq_zero_iff (by show magnitude b < 2 ^ 32; omega)]
    exact not_lt.mpr h
  have hrem : sub32 (magnitude a) (low64 (seedQuotient a b * magnitude b) / 2 ^ 17) =
      magnitude a - seedQuotient a b * magnitude b / 2 ^ 17 := by
    rw [low64_of_lt (by omega), sub32_of_le (by omega) (by omega)]
  rw [divSeed, if_neg hmask, ← hrem]
  rfl

/-- The seed owes the quotient of |a| x 2^17 and what its truncated product left in rem. -/
theorem divSeed_total {a b : Word} (hb : b ≠ 0#32) :
    (divSeed (divInit a b)).q + (divSeed (divInit a b)).pending = engineQuotient a b := by
  by_cases hsmall : magnitude b < 2 ^ 20
  · rw [divSeed_of_small hsmall, engineQuotient_of_small hsmall]
    exact Nat.zero_add _
  · have hproduct := seedQuotient_mul_le a b
    rw [divSeed_of_large (not_lt.mp hsmall), engineQuotient, seedExcess, if_neg hsmall,
      DivState.pending_of_bp_eq (n := 17) rfl, divInit]
    dsimp only
    have hnumerator : (magnitude a - seedQuotient a b * magnitude b / 2 ^ 17) * 2 ^ 17 +
        seedQuotient a b * magnitude b = magnitude a * 2 ^ 17 + seedQuotient a b * magnitude b % 2 ^ 17 := by
      omega
    rw [add_comm, ← Nat.add_mul_div_right _ _ (magnitude_pos hb), hnumerator]

/-- Where the engine is seeded no quotient reaches 2^32; elsewhere all of it is still to be added. -/
theorem divSeed_flag {a b : Word} (hb : b ≠ 0#32) :
    2 ^ 32 ≤ (divSeed (divInit a b)).pending ↔ 2 ^ 32 ≤ engineQuotient a b := by
  have htotal := divSeed_total (a := a) hb
  by_cases hsmall : magnitude b < 2 ^ 20
  · have hq : (divSeed (divInit a b)).q = 0 := by rw [divSeed_of_small hsmall]; rfl
    omega
  · have hlt := engineQuotient_lt_of_large (a := a) (not_lt.mp hsmall)
    omega

theorem divSeed_owes {a b : Word} (hb : b ≠ 0#32) :
    (divSeed (divInit a b)).Owes (engineQuotient a b) (decide (2 ^ 32 ≤ engineQuotient a b)) := by
  have ha := magnitude_le a
  have htotal := divSeed_total (a := a) hb
  have hflag : decide (2 ^ 32 ≤ (divSeed (divInit a b)).pending) = decide (2 ^ 32 ≤ engineQuotient a b) :=
    decide_eq_decide.mpr (divSeed_flag hb)
  by_cases hsmall : magnitude b < 2 ^ 20
  · rw [divSeed_of_small hsmall] at htotal hflag ⊢
    exact ⟨by show magnitude a < 2 ^ 32; omega, magnitude_pos hb, magnitude_le b, le_rfl, htotal, hflag⟩
  · rw [divSeed_of_large (not_lt.mp hsmall)] at htotal hflag ⊢
    exact ⟨(Nat.sub_le _ _).trans_lt (by omega), magnitude_pos hb, magnitude_le b, le_rfl, htotal, hflag⟩

/-- R83 to R85: what the engine computes, and that its passes flag exactly a quotient of 2^32 or more. -/
theorem divEngine_spec (a : Word) {b : Word} (hb : b ≠ 0#32) :
    (divEngine a b).q = engineQuotient a b ∧ (divEngine a b).ovf = decide (2 ^ 32 ≤ (divEngine a b).q) := by
  have hle := engineQuotient_le a b
  obtain ⟨hq, hovf⟩ := (divSeed_owes (a := a) hb).paid (by omega)
  exact ⟨hq, hovf.trans (by rw [← hq]; rfl)⟩

/-- R92: the excess is less than one divisor. -/
theorem engineQuotient_floor_or_succ (a : Word) {b : Word} (hb : b ≠ 0#32) :
    engineQuotient a b = magnitude a * 2 ^ 17 / magnitude b ∨
      engineQuotient a b = magnitude a * 2 ^ 17 / magnitude b + 1 := by
  by_cases hsmall : magnitude b < 2 ^ 20
  · exact .inl (engineQuotient_of_small hsmall)
  · have hexcess := seedExcess_lt a b
    have hlow : magnitude a * 2 ^ 17 / magnitude b ≤ engineQuotient a b :=
      Nat.div_le_div_right (Nat.le_add_right _ _)
    have hhigh : engineQuotient a b ≤ magnitude a * 2 ^ 17 / magnitude b + 1 := by
      rw [← Nat.add_div_right _ (magnitude_pos hb)]
      exact Nat.div_le_div_right (by omega)
    omega

/-- Settles O33: the seed leaves less than one divisor too much, and the loops divide exactly what it leaves. -/
theorem dividerQuotientIsFloorOrOneMore : Obligations.DividerQuotientIsFloorOrOneMore := by
  intro a b hb
  obtain ⟨hq, -⟩ := divEngine_spec a hb
  rw [hq]
  exact ⟨engineQuotient_floor_or_succ a hb, engineQuotient_of_small⟩

/-! #### DIVCORE answers the signed quotient (R86 to R88) -/

/-- The core result for a quotient magnitude `m` (R87): the word of the signed quotient, and whether `m` reaches 2^31.
`divCore_eq` ties it to the model. -/
def quotientCore (a b : Word) (m : Nat) : CoreResult :=
  { w := toWord (signedQuotient a b m), ov := decide (2 ^ 31 ≤ m) }

/-- R86: the rounding increment never carries a magnitude up to 2^31. A quotient 2^32 - 1 puts |a| less than 8 below
2^15 x |b|, which takes |b| past 2^17 and |a| past 2^31. -/
theorem engineQuotient_ne {a b : Word} (hb : b ≠ 0#32) : engineQuotient a b ≠ 2 ^ 32 - 1 := by
  intro heq
  obtain hsmall | hlarge := lt_or_ge (magnitude b) (2 ^ 20)
  · have ha := magnitude_le a
    have hdiv := Nat.div_add_mod (magnitude a * 2 ^ 17) (magnitude b)
    have hmod := Nat.mod_lt (magnitude a * 2 ^ 17) (magnitude_pos hb)
    rw [engineQuotient_of_small hsmall] at heq
    rw [heq] at hdiv
    omega
  · exact (engineQuotient_lt_of_large hlarge).ne heq

theorem overflow_iff_quotientMagnitude {noRounding : Bool} {q : Nat} (h : q ≠ 2 ^ 32 - 1) :
    2 ^ 32 ≤ q ↔ 2 ^ 31 ≤ quotientMagnitude noRounding q := by
  rw [quotientMagnitude]
  split <;> omega

theorem divMagnitude_eq (noRounding : Bool) {q : Nat} (h : q + 1 < 2 ^ 64) :
    divMagnitude noRounding q = BitVec.ofNat 32 (quotientMagnitude noRounding q) := by
  rw [divMagnitude, quotientMagnitude, low64_of_lt h, apply_ite (· / 2)]

theorem msb_xor_eq_false_iff (a b : Word) :
    (a ^^^ b).msb = false ↔ decide (a.toInt < 0) = decide (b.toInt < 0) := by
  rw [BitVec.msb_xor, BitVec.msb_eq_toInt, BitVec.msb_eq_toInt]
  simp

theorem ofNat_eq_minWord {m : Nat} (h : BitVec.ofNat 32 m = minWord) : 2 ^ 31 ≤ m := by
  have hnat : m % 2 ^ 32 = 2 ^ 31 := congrArg BitVec.toNat h
  omega

/-- R87: where the operand signs differ, the extra flag of a magnitude 2^31 adds nothing. -/
theorem divSign_eq (a b : Word) (m : Nat) :
    divSign a b (BitVec.ofNat 32 m) (decide (2 ^ 31 ≤ m)) = quotientCore a b m := by
  by_cases hsign : decide (a.toInt < 0) = decide (b.toInt < 0)
  · have hmsb := (msb_xor_eq_false_iff a b).mpr hsign
    rw [divSign, quotientCore, signedQuotient, if_pos hsign, hmsb, toWord, BitVec.ofInt_natCast]
    rfl
  · have hmsb : (a ^^^ b).msb = true := by rwa [← Bool.not_eq_false, msb_xor_eq_false_iff]
    have hflag : (decide (2 ^ 31 ≤ m) || decide (BitVec.ofNat 32 m = minWord)) = decide (2 ^ 31 ≤ m) := by
      rw [← Bool.decide_or, decide_eq_decide]
      exact or_iff_left_of_imp ofNat_eq_minWord
    rw [divSign, quotientCore, signedQuotient, if_neg hsign, if_pos hmsb, hflag, toWord, BitVec.ofInt_neg,
      BitVec.ofInt_natCast]

theorem divCore_zero (noRounding : Bool) (a : Word) :
    divCore noRounding a 0#32 = { w := minWord, ov := false } := rfl

theorem divCore_of_ne_zero (noRounding : Bool) (a : Word) {b : Word} (hb : b ≠ 0#32) :
    divCore noRounding a b = divSign a b (divMagnitude noRounding (divEngine a b).q) (divEngine a b).ovf :=
  if_neg hb

/-- R88: DIVCORE is a function of the engine's quotient and the operand signs. -/
theorem divCore_eq (noRounding : Bool) (a : Word) {b : Word} (hb : b ≠ 0#32) :
    divCore noRounding a b = quotientCore a b (quotientMagnitude noRounding (divEngine a b).q) := by
  obtain ⟨hq, hovf⟩ := divEngine_spec a hb
  have hle := engineQuotient_le a b
  have hne := engineQuotient_ne (a := a) hb
  rw [← hq] at hle hne
  rw [divCore_of_ne_zero noRounding a hb, hovf, divMagnitude_eq noRounding (by omega),
    decide_eq_decide.mpr (overflow_iff_quotientMagnitude hne), divSign_eq]

/-! #### The three modes (R89 to R91) -/

theorem modeC_quotientCore (p : Policy) (a b : Word) (m : Nat) :
    modeC p (quotientCore a b m) =
      checked (if 2 ^ 31 ≤ m ∧ p.ovfValue = .sentinel then -2 ^ 31 else signedQuotient a b m)
        (decide (2 ^ 31 ≤ m)) := by
  have hmin : minWord = toWord (-2 ^ 31) := rfl
  simp only [modeC, quotientCore, checked, hmin, apply_ite toWord, Bool.and_eq_true, decide_eq_true_eq]

theorem clampByAgreement_eq (a b : Word) :
    clampByAgreement a b =
      toWord (if decide (a.toInt < 0) = decide (b.toInt < 0) then 2 ^ 31 - 1 else -2 ^ 31) := by
  have hagree : (nonneg a == nonneg b) = true ↔ decide (a.toInt < 0) = decide (b.toInt < 0) := by
    simp only [nonneg, fixedOperand, beq_iff_eq, decide_eq_decide, ← not_lt, not_iff_not]
  have hmax : maxWord = toWord (2 ^ 31 - 1) := rfl
  have hmin : minWord = toWord (-2 ^ 31) := rfl
  rw [clampByAgreement, hmax, hmin, ← apply_ite toWord, if_congr hagree rfl rfl]

/-- No magnitude below 2^31 signs to MIN, so SAT_DETECT = SENTINEL finds nothing that the flag does not. -/
theorem saturates_quotientCore_iff (p : Policy) (a b : Word) (m : Nat) :
    saturates p (quotientCore a b m) = true ↔ 2 ^ 31 ≤ m := by
  have hword : m < 2 ^ 31 → toWord (signedQuotient a b m) ≠ minWord := by
    intro hm hword
    have hrange : -2 ^ 31 < signedQuotient a b m ∧ signedQuotient a b m < 2 ^ 31 := by
      rw [signedQuotient]; split <;> omega
    have hvalue := congrArg BitVec.toInt hword
    rw [toInt_toWord hrange.1.le hrange.2] at hvalue
    exact hrange.1.ne' hvalue
  cases hdetect : p.satDetect with
  | flag => simp [saturates, hdetect, quotientCore]
  | sentinel =>
    simp only [saturates, hdetect, quotientCore, Bool.or_eq_true, decide_eq_true_eq]
    exact or_iff_left_of_imp fun hmin => not_lt.mp fun hm => hword hm (of_decide_eq_true hmin)

theorem divSResponse_eq (p : Policy) (a : Word) {b : Word} (hb : b ≠ 0#32) :
    divSResponse p a b =
      plain
        (if 2 ^ 31 ≤ quotientMagnitude p.noRounding (divEngine a b).q then
            (if decide (a.toInt < 0) = decide (b.toInt < 0) then 2 ^ 31 - 1 else -2 ^ 31)
          else signedQuotient a b (quotientMagnitude p.noRounding (divEngine a b).q)) := by
  rw [divSResponse, divCore_eq p.noRounding a hb]
  split
  case isTrue hover =>
    rw [modeS_of_saturates ((saturates_quotientCore_iff p a b _).mpr hover), clampByAgreement_eq, wordResponse_toWord]
  case isFalse hfits =>
    rw [modeS_of_not_saturates fun hsat => hfits ((saturates_quotientCore_iff p a b _).mp hsat)]
    rfl

/-- Settles O34: DIVCORE's word is that of the signed quotient. -/
theorem wrappingDivideRoundsTheMagnitude : Obligations.WrappingDivideRoundsTheMagnitude := by
  intro s a b hb
  have h := answers_divW a b s
  rwa [divCore_eq _ a hb] at h

/-- Settles O35: the passes flag exactly a quotient of 2^32 or more, and OVF_VALUE chooses the value. -/
theorem checkedDivideFlagsOverflow : Obligations.CheckedDivideFlagsOverflow := by
  intro s a b hb
  have h := answers_divC a b s
  rwa [divCore_eq _ a hb, modeC_quotientCore] at h

/-- Settles O36: DIV.S saturates exactly where DIVCORE flags. -/
theorem saturatingDivideClamps : Obligations.SaturatingDivideClamps := by
  intro s a b hb
  have h := answers_divS a b s
  rwa [divSResponse_eq _ a hb] at h

/-- R91: DIV.S by zero saturates under SAT_DETECT = SENTINEL alone, and then by the sign of the dividend. -/
theorem divSResponse_zero_of_flag {p : Policy} (h : p.satDetect = .flag) (a : Word) :
    divSResponse p a 0#32 = ⟨0x80000000#64, false, false⟩ :=
  modeS_of_not_saturates (by simp [saturates, h, divCore_zero]) _

theorem divSResponse_zero_of_sentinel {p : Policy} (h : p.satDetect = .sentinel) (a : Word) :
    divSResponse p a 0#32 = plain (if 0 ≤ a.toInt then 2 ^ 31 - 1 else -2 ^ 31) := by
  have hagree : decide (a.toInt < 0) = decide ((0#32).toInt < 0) ↔ 0 ≤ a.toInt := by simp
  rw [divSResponse, modeS_of_saturates (by simp [saturates, h, divCore_zero]), clampByAgreement_eq,
    if_congr hagree rfl rfl, wordResponse_toWord]

/-- Settles O32: a zero divisor never reaches the engine (R81). -/
theorem divisionByZeroGivesTheSentinel : Obligations.DivisionByZeroGivesTheSentinel := by
  intro s a
  refine ⟨answers_divW a 0#32 s, ?checked, fun hflag => ?flag, fun hsentinel => ?sentinel⟩
  case checked => exact answers_divC a 0#32 s
  case flag => exact divSResponse_zero_of_flag hflag a ▸ answers_divS a 0#32 s
  case sentinel => exact divSResponse_zero_of_sentinel hsentinel a ▸ answers_divS a 0#32 s

end Sys2Proof.Machine

end

/-! ### 45_sqrt.md: digit_extract_sqrt_engine (R94 to R101) -/

section

namespace Sys2Proof.Machine

/-! #### The digit loop takes integer roots (R96) -/

/-- One pass of the digit loop with the probe `bit` (R96); `digits_succ` ties it to the model. -/
def digitStep (r : RootState) (bit : Nat) : RootState :=
  if r.num ≥ low32 (r.res + bit)
  then { num := sub32 r.num (r.res + bit), res := low32 (r.res / 2 + bit) }
  else { r with res := r.res / 2 }

theorem digits_zero_bit (fuel : Nat) (r : RootState) : digits fuel r 0 = r := by
  cases fuel with
  | zero => rfl
  | succ fuel => exact if_pos rfl

theorem digits_succ (fuel : Nat) (r : RootState) {bit : Nat} (h : bit ≠ 0) :
    digits (fuel + 1) r bit = digits fuel (digitStep r bit) (bit / 4) := if_neg h

/-- With `j` digits still to come the engine holds the partial root `m` of `total`: its remainder is what `m` leaves,
its result is `m` scaled by 2^j, the root is less than one unit of 2^j above `m`, and no word wraps (R100). The probe
at that point is `4 ^ j / 4`, which is 0 once no digit is left. -/
structure RootState.Extracted (total m j : Nat) (r : RootState) : Prop where
  remainder : r.num + m * m = total
  result    : r.res = m * 2 ^ j
  below     : total < (m + 2 ^ j) * (m + 2 ^ j)
  num_lt    : r.num < 2 ^ 32
  word      : (m + 2 ^ j) * 2 ^ j ≤ 2 ^ 32

theorem two_pow_mul_self (k : Nat) : 2 ^ k * 2 ^ k = 4 ^ k := (mul_pow 2 2 k).symm

theorem four_pow_succ_div_four (k : Nat) : 4 ^ (k + 1) / 4 = 4 ^ k := Nat.mul_div_cancel _ (by decide)

section Digits

variable {total m : Nat} {r : RootState}

/-- The probe decides the next digit, of weight `b`: res + bit is what the square of the root grows by. -/
theorem digitStep_eq {b : Nat} (hb : 0 < b) (hres : r.res = m * (b * 2)) (hnum : r.num < 2 ^ 32)
    (hword : (m + b * 2) * (b * 2) ≤ 2 ^ 32) :
    digitStep r (b * b) =
      if (m + b) * (m + b) ≤ r.num + m * m
      then { num := r.num + m * m - (m + b) * (m + b), res := (m + b) * b }
      else { num := r.num, res := m * b } := by
  have hprobe : r.res = 2 * (m * b) := by rw [hres]; ring
  have hhalf : r.res / 2 = m * b := by omega
  have hpos : 0 < b * b := Nat.mul_pos hb hb
  have hwide : (m + b * 2) * (b * 2) = 2 * (m * b) + 4 * (b * b) := by ring
  have hgrown : (m + b) * (m + b) = m * m + (2 * (m * b) + b * b) := by ring
  have hroot : (m + b) * b = m * b + b * b := add_mul m b b
  rw [digitStep, hhalf, hprobe, low32_of_lt (n := 2 * (m * b) + b * b) (by omega), hgrown, hroot]
  by_cases hfits : 2 * (m * b) + b * b ≤ r.num
  · rw [if_pos hfits, if_pos (by omega), sub32_of_le hnum hfits, low32_of_lt (by omega), Nat.add_comm r.num,
      Nat.add_sub_add_left]
  · rw [if_neg hfits, if_neg (by omega)]

theorem RootState.Extracted.after_digit {k : Nat} (h : r.Extracted total m (k + 1)) :
    ∃ m', (digitStep r (4 ^ k)).Extracted total m' k := by
  obtain ⟨hrem, hres, hbelow, hnum, hword⟩ := h
  rw [pow_succ] at hres hbelow hword
  have hnarrow : (m + 2 ^ k + 2 ^ k) * 2 ^ k ≤ 2 ^ 32 :=
    (Nat.mul_le_mul (by omega) (Nat.le_mul_of_pos_right _ (by decide))).trans hword
  rw [← two_pow_mul_self, digitStep_eq (Nat.two_pow_pos k) hres hnum hword, hrem]
  split
  case isTrue hfits =>
    exact ⟨m + 2 ^ k, {
      remainder := Nat.sub_add_cancel hfits
      result := rfl
      below := by rwa [add_assoc, ← mul_two]
      num_lt := by dsimp only; have := Nat.mul_self_le_mul_self (Nat.le_add_right m (2 ^ k)); omega
      word := hnarrow }⟩
  case isFalse hshort =>
    exact ⟨m, {
      remainder := hrem
      result := rfl
      below := not_le.mp hshort
      num_lt := hnum
      word := (Nat.mul_le_mul_right _ (Nat.le_add_right _ _)).trans hnarrow }⟩

/-- R96: the digit loop ends with the integer root and its remainder. -/
theorem RootState.Extracted.digits_eq {fuel j : Nat} (h : r.Extracted total m j) (hfuel : j ≤ fuel) :
    digits fuel r (4 ^ j / 4) = { num := total - total.sqrt * total.sqrt, res := total.sqrt } := by
  induction j generalizing fuel r m with
  | zero =>
    obtain ⟨hrem, hres, hbelow, -, -⟩ := h
    rw [pow_zero, mul_one] at hres
    have hroot : m = total.sqrt := Nat.eq_sqrt.mpr ⟨by omega, hbelow⟩
    have hnum : r.num = total - m * m := by omega
    rw [← hroot, ← hnum, ← hres]
    exact digits_zero_bit fuel r
  | succ k ih =>
    obtain ⟨fuel, rfl⟩ := Nat.exists_eq_add_one_of_ne_zero (n := fuel) (by omega)
    obtain ⟨m', h'⟩ := h.after_digit
    rw [four_pow_succ_div_four, digits_succ _ _ (by positivity)]
    exact ih h' (by omega)

end Digits

/-! #### The first pass and its probe (R95, R96) -/

/-- R95: the shifted probe still lies at or above the leading digit of the root. -/
theorem probeDown_eq {num j : Nat} (fuel : Nat) (h : num < 4 ^ j) :
    ∃ i ≤ j, num < 4 ^ i ∧ probeDown fuel num (4 ^ j / 4) = 4 ^ i / 4 := by
  induction fuel generalizing j with
  | zero => exact ⟨j, le_rfl, h, rfl⟩
  | succ fuel ih =>
    rw [probeDown]
    split
    case isFalse => exact ⟨j, le_rfl, h, rfl⟩
    case isTrue hover =>
      cases j with
      | zero => exact absurd hover (Nat.not_lt_zero num)
      | succ k =>
        rw [four_pow_succ_div_four] at hover ⊢
        obtain ⟨i, hi, hnum, heq⟩ := ih hover
        exact ⟨i, by omega, hnum, heq⟩

theorem initialProbe_eq {num : Nat} (h : num < 2 ^ 32) :
    ∃ i ≤ 16, num < 4 ^ i ∧ initialProbe num = 4 ^ i / 4 := by
  rw [initialProbe]
  split
  case isTrue => exact probeDown_eq (j := 16) 16 h
  case isFalse hlow =>
    obtain ⟨i, hi, hnum, heq⟩ :=
      probeDown_eq (j := 10) 16 ((and_top12_eq_zero_iff h).mp (not_not.mp hlow))
    exact ⟨i, by omega, hnum, heq⟩

theorem digits_initialProbe {num : Nat} (h : num < 2 ^ 32) :
    digits 16 { num := num, res := 0 } (initialProbe num) =
      { num := num - num.sqrt * num.sqrt, res := num.sqrt } := by
  obtain ⟨i, hi, hnum, hprobe⟩ := initialProbe_eq h
  have hword : 4 ^ i ≤ 2 ^ 32 := Nat.pow_le_pow_right (n := 4) (by decide) hi
  have hstart : RootState.Extracted num 0 i { num := num, res := 0 } := {
    remainder := rfl
    result := (zero_mul _).symm
    below := by rwa [zero_add, two_pow_mul_self]
    num_lt := h
    word := by rwa [zero_add, two_pow_mul_self] }
  rw [hprobe]
  exact hstart.digits_eq hi

/-! #### The rescaling and the second pass (R97, R98) -/

theorem sqrt_magnitude_le {n : Nat} (h : n ≤ 2 ^ 31) : n.sqrt ≤ 46340 :=
  Nat.lt_succ_iff.mp (Nat.sqrt_lt.mpr (by omega))

theorem rescale_of_small {r : RootState} (hnum : r.num ≤ 65535) (hres : r.res ≤ 46340) :
    rescale r = { num := r.num * 2 ^ 16, res := r.res * 2 ^ 16 } := by
  rw [rescale, if_neg (by omega), low32_of_lt (by omega), low32_of_lt (by omega)]

theorem rescale_of_large {r : RootState} (hnum : 65535 < r.num) (hres : r.res ≤ 46340) (hle : r.num ≤ 2 * r.res) :
    rescale r = { num := (r.num - r.res) * 2 ^ 16 - 0x8000, res := r.res * 2 ^ 16 + 0x8000 } := by
  simp only [rescale, if_pos hnum]
  rw [sub32_of_le (x := r.num) (by omega) (by omega), low32_of_lt (n := (r.num - r.res) * 2 ^ 16) (by omega),
    sub32_of_le (by omega) (by omega), low32_of_lt (n := r.res * 2 ^ 16) (by omega), low32_of_lt (by omega)]

theorem second_pass_word {m : Nat} (h : m ≤ 46340) : (m * 2 ^ 8 + 2 ^ 7 + 2 ^ 8) * 2 ^ 8 ≤ 2 ^ 32 := by omega

/-- R97: the second pass starts from the first root with 8 more digits to come. Where the first remainder leaves 16
bits it starts half a unit higher, from root x 2^8 + 2^7, and the square of that half unit leaves the radicand. -/
theorem rescale_extracted {n : Nat} (h : n ≤ 2 ^ 31) :
    ∃ m, (rescale { num := n - n.sqrt * n.sqrt, res := n.sqrt }).Extracted (scaledRadicand n) m 8 := by
  have hroot := sqrt_magnitude_le h
  have hlow := Nat.sqrt_le n
  have hhigh := Nat.sqrt_le_add n
  rw [scaledRadicand]
  generalize n.sqrt = m at *
  have hsquare : m * 2 ^ 8 * (m * 2 ^ 8) = m * m * 2 ^ 16 := by ring
  have hnext : (m * 2 ^ 8 + 2 ^ 8) * (m * 2 ^ 8 + 2 ^ 8) = (m * m + m + m + 1) * 2 ^ 16 := by ring
  split
  case isTrue hlarge =>
    have hhalf : (m * 2 ^ 8 + 2 ^ 7) * (m * 2 ^ 8 + 2 ^ 7) = (m * m + m) * 2 ^ 16 + 2 ^ 14 := by ring
    have habove : (m * 2 ^ 8 + 2 ^ 8) * (m * 2 ^ 8 + 2 ^ 8) ≤
        (m * 2 ^ 8 + 2 ^ 7 + 2 ^ 8) * (m * 2 ^ 8 + 2 ^ 7 + 2 ^ 8) := Nat.mul_self_le_mul_self (by omega)
    rw [rescale_of_large hlarge hroot (by show n - m * m ≤ 2 * m; omega)]
    exact ⟨m * 2 ^ 8 + 2 ^ 7, {
      remainder := by dsimp only; omega
      result := by dsimp only; ring
      below := by omega
      num_lt := by dsimp only; omega
      word := second_pass_word hroot }⟩
  case isFalse hsmall =>
    rw [rescale_of_small (not_lt.mp hsmall) hroot]
    exact ⟨m * 2 ^ 8, {
      remainder := by dsimp only; omega
      result := by dsimp only; ring
      below := by omega
      num_lt := by dsimp only; omega
      word := by omega }⟩

/-- R96 to R98: both passes leave the integer root of the scaled radicand and its remainder. -/
theorem rootEngine_eq {n : Nat} (h : n ≤ 2 ^ 31) :
    rootEngine n =
      { num := scaledRadicand n - (scaledRadicand n).sqrt * (scaledRadicand n).sqrt,
        res := (scaledRadicand n).sqrt } := by
  obtain ⟨m, hm⟩ := rescale_extracted h
  rw [rootEngine, digits_initialProbe (by omega)]
  exact hm.digits_eq (by decide)

/-! #### Rounding, sign and bounds (R99 to R101) -/

theorem scaledRadicand_le (n : Nat) : scaledRadicand n ≤ n * 65536 := by
  rw [scaledRadicand]
  split <;> omega

/-- R100: the radicand is at most 2^47, whose root is 0x00B504F3 with a remainder that does not round up. -/
theorem exactRoot_le (noRounding : Bool) {n : Nat} (h : n ≤ 2 ^ 31) : exactRoot noRounding n ≤ 0x00B504F3 := by
  have hscaled := scaledRadicand_le n
  have hroot : (scaledRadicand n).sqrt ≤ 0x00B504F3 := Nat.lt_succ_iff.mp (Nat.sqrt_lt.mpr (by omega))
  rw [exactRoot]
  split
  case isFalse => exact hroot
  case isTrue hround =>
    have hne : (scaledRadicand n).sqrt ≠ 0x00B504F3 := fun heq => by
      rw [heq] at hround
      omega
    omega

theorem roundRoot_rootEngine (noRounding : Bool) {n : Nat} (h : n ≤ 2 ^ 31) :
    roundRoot noRounding (rootEngine n) = exactRoot noRounding n := by
  have hle := exactRoot_le noRounding h
  rw [rootEngine_eq h, roundRoot]
  rw [exactRoot] at hle ⊢
  cases noRounding with
  | true => simp
  | false =>
    simp only [Bool.not_false, Bool.true_and, decide_eq_true_eq, true_and] at hle ⊢
    split
    case isFalse => rfl
    case isTrue hround =>
      rw [if_pos hround] at hle
      exact low32_of_lt (by omega)

/-- The root of an operand with its sign restored (R100); `sqrtResult_eq` ties it to the model. -/
def signedRoot (noRounding : Bool) (a : Word) : Int :=
  if a.toInt < 0 then -(exactRoot noRounding a.toInt.natAbs : Int) else exactRoot noRounding a.toInt.natAbs

theorem nonneg_iff (a : Word) : nonneg a = true ↔ ¬ a.toInt < 0 := by
  rw [nonneg, fixedOperand, decide_eq_true_iff, not_lt]

theorem sqrtResult_eq (noRounding : Bool) (a : Word) : sqrtResult noRounding a = toWord (signedRoot noRounding a) := by
  have hsign := nonneg_iff a
  rw [sqrtResult, roundRoot_rootEngine noRounding (magnitude_le a), signedRoot]
  by_cases hneg : a.toInt < 0
  · rw [if_neg (by rwa [hsign, not_not]), if_pos hneg, toWord, BitVec.ofInt_neg, BitVec.ofInt_natCast]
    rfl
  · rw [if_pos (hsign.mpr hneg), if_neg hneg, toWord, BitVec.ofInt_natCast]
    rfl

/-- Settles O37: the first pass leaves the integer root of the magnitude, the second that of the scaled radicand. -/
theorem squareRootHasAClosedForm : Obligations.SquareRootHasAClosedForm := by
  intro s a
  have h := answers_sqrt a s
  rwa [sqrtResult_eq] at h

/-- Settles O38: negation keeps the magnitude of an operand other than MIN, and with it the root. -/
theorem squareRootIsBoundedAndOdd : Obligations.SquareRootIsBoundedAndOdd := by
  intro s a
  refine ⟨exactRoot s.cfg.policy.noRounding a.toInt.natAbs, exactRoot_le _ (magnitude_le a),
    squareRootHasAClosedForm s a, fun hmin hzero => ?odd⟩
  case odd =>
    have hneg : (-a).toInt = -a.toInt := BitVec.toInt_neg_of_ne_intMin hmin
    have hne : a.toInt ≠ 0 := Int.natAbs_ne_zero.mp (natAbs_toInt_ne_zero hzero)
    have h := squareRootHasAClosedForm s (-a)
    rw [hneg, Int.natAbs_neg] at h
    obtain hlt | hgt := lt_or_gt_of_ne hne
    · rw [if_neg (by omega)] at h
      rwa [if_pos hlt]
    · rw [if_pos (by omega)] at h
      rwa [if_neg (by omega)]

end Sys2Proof.Machine

end

/-! ### 46_trig.md: quadrant_reducer_trig and sine_cosine_lut (R102 to R111) -/

section

namespace Sys2Proof.Machine

/-! #### SINCORE in closed form (R103 to R106) -/

/-- R103: the corrected truncating remainder is the Euclidean one. -/
theorem reduceAngle_eq (x : Int) : reduceAngle x = x % 411774 := by
  have hperiod : twoPi.toInt = 411774 := by decide
  have hcorrect := Int.tmod_eq_emod (a := x) (b := 411774)
  have hlow := Int.emod_nonneg x (b := 411774) (by decide)
  have hhigh := Int.emod_lt_of_pos x (b := 411774) (by decide)
  simp only [reduceAngle, hperiod]
  split at hcorrect <;> split <;> omega

/-- The sine of the angle `u` of the first half turn, from a quarter table `L`. `sineMagnitude_reflected`
ties it to the model, `sineOfReduced_eq` to the closed form. -/
def sineOfHalfTurn (L : Nat → Word) (u : Nat) : Word :=
  if u < 102943 then L u else if u = 102943 then one else L (205887 - u)

/-- The second half turn is the first one negated. -/
theorem sineOfReduced_eq (L : Nat → Word) {t : Nat} (h : t < 411774) :
    sineOfReduced L t = if t < 205887 then sineOfHalfTurn L t else -sineOfHalfTurn L (t - 205887) := by
  rw [sineOfReduced]
  by_cases hhalf : t < 205887
  · simp only [if_pos hhalf, sineOfHalfTurn]
  · have hreflect : 205887 - (t - 205887) = 411774 - t := by omega
    rw [if_neg (by omega), if_neg (by omega), if_neg hhalf, if_neg hhalf, sineOfHalfTurn, hreflect,
      apply_ite Neg.neg, apply_ite Neg.neg]
    exact if_congr (by omega) rfl (if_congr (by omega) rfl rfl)

/-- R104 and R105: the reflection stays inside the table but for HALF_PI itself, which the clamp takes to ONE. -/
theorem sineMagnitude_reflected (lut : SinLut) {u : Nat} (h : u < 205887) :
    sineMagnitude lut (if (u : Int) ≥ halfPi.toInt then pi.toInt - u else u) = sineOfHalfTurn (lutRead lut) u := by
  have hpi : pi.toInt = 205887 := by decide
  have hhalf : halfPi.toInt = 102943 := by decide
  rw [hpi, hhalf, sineOfHalfTurn]
  obtain hlow | rfl | hhigh := lt_trichotomy u 102943
  · rw [if_neg (by omega), if_pos hlow, sineMagnitude, lutCount, if_neg (by omega), Int.toNat_natCast]
  · rfl
  · have hreflect : ((205887 : Int) - u).toNat = 205887 - u := by omega
    rw [if_pos (by omega), if_neg (by omega), if_neg (by omega), sineMagnitude, lutCount, if_neg (by omega), hreflect]

theorem toInt_emod_twoPi_lt (x : Word) : (x.toInt % 411774).toNat < 411774 := by omega

/-- R106: SINCORE reads the table at the reduced and reflected angle. -/
theorem sinCore_eq (lut : SinLut) (x : Word) :
    sinCore lut x = sineOfReduced (lutRead lut) (x.toInt % 411774).toNat := by
  have hpi : pi.toInt = 205887 := by decide
  have hlt := toInt_emod_twoPi_lt x
  have hcast : x.toInt % 411774 = ((x.toInt % 411774).toNat : Int) := by omega
  rw [sinCore, fixedOperand, reduceAngle_eq, hcast, Int.toNat_natCast, sineOfReduced_eq _ hlt, quadrant]
  generalize (x.toInt % 411774).toNat = t at hlt
  by_cases hhalf : t < 205887
  · rw [decide_eq_false (by omega), if_pos hhalf, ← sineMagnitude_reflected lut hhalf]
    rfl
  · have hsub : (t : Int) - pi.toInt = (t - 205887 : Nat) := by omega
    rw [decide_eq_true (by omega), if_neg hhalf, ← sineMagnitude_reflected lut (by omega), if_pos rfl, hsub]
    rfl

/-- Settles O39. -/
theorem sineReadsTheReducedAngle : Obligations.SineReadsTheReducedAngle := by
  intro s x
  rw [← sinCore_eq]
  exact answers_sin x s

/-! #### COS and TAN (R108, R109) -/

/-- Settles O40: both answers are SINCORE of the sum. -/
theorem cosineIsShiftedSine : Obligations.CosineIsShiftedSine :=
  ⟨unaryAt_of_encode (by decide) (by decide) fun _ => rfl,
    fun s x => ⟨wordResponse (cosCore s.cfg.sinLut x), answers_sin (x + halfPi) s, answers_cos x s⟩⟩

/-- Settles O41: all four answers speak of the same two words, SINCORE and COSCORE of the operand. -/
theorem tangentIsSaturatingDivide : Obligations.TangentIsSaturatingDivide :=
  ⟨unaryAt_of_encode (by decide) (by decide) fun _ => rfl,
    fun s x => ⟨sinCore s.cfg.sinLut x, cosCore s.cfg.sinLut x, _, answers_sin x s, answers_cos x s,
      answers_divS _ _ s, answers_tan x s⟩⟩

/-! #### Range and period (R110) -/

/-- The words in [-ONE, ONE]. -/
def WithinOne (w : Word) : Prop := -65536 ≤ w.toInt ∧ w.toInt ≤ 65536

theorem withinOne_neg {w : Word} (h : WithinOne w) : WithinOne (-w) := by
  obtain ⟨hlow, hhigh⟩ := h
  have hmin : w ≠ BitVec.intMin 32 := fun heq => absurd hlow (by rw [heq]; decide)
  rw [WithinOne, BitVec.toInt_neg_of_ne_intMin hmin]
  omega

theorem withinOne_sineOfReduced {L : Nat → Word} (hL : ∀ i, i < 102944 → WithinOne (L i)) {t : Nat} (h : t < 411774) :
    WithinOne (sineOfReduced L t) := by
  have hhalf : ∀ u < 205887, WithinOne (sineOfHalfTurn L u) := by
    intro u hu
    rw [sineOfHalfTurn]
    split_ifs
    · exact hL u (by omega)
    · exact (by decide : -65536 ≤ one.toInt ∧ one.toInt ≤ 65536)
    · exact hL _ (by omega)
  rw [sineOfReduced_eq L h]
  split_ifs with hfirst
  · exact hhalf t hfirst
  · exact withinOne_neg (hhalf _ (by omega))

theorem wordResponse_eq_plain (w : Word) : wordResponse w = plain w.toInt := by
  rw [← wordResponse_toWord, toWord_toInt]

theorem toInt_add_twoPi {x : Word} (h : x.toInt + 411774 ≤ 2 ^ 31 - 1) :
    (x + 0x0006487E#32).toInt = x.toInt + 411774 := by
  have hlow := BitVec.le_toInt x
  have hperiod : (0x0006487E#32).toInt = 411774 := by decide
  rw [add_eq_toWord, hperiod]
  exact toInt_toWord (by omega) (by omega)

/-- Settles O43: every answer is a table entry, ONE, or the negation of one; and the period leaves the reduced angle
as it is. -/
theorem sineIsBoundedAndPeriodic : Obligations.SineIsBoundedAndPeriodic := by
  intro s x
  refine ⟨fun htable => ?bounded, fun hsum => ?periodic⟩
  case bounded =>
    have hsin (y : Word) : WithinOne (sinCore s.cfg.sinLut y) := by
      rw [sinCore_eq]
      refine withinOne_sineOfReduced (fun i hi => ?_) (toInt_emod_twoPi_lt y)
      exact ⟨le_trans (by decide) (htable i hi).1, (htable i hi).2⟩
    obtain ⟨hsinLow, hsinHigh⟩ := hsin x
    obtain ⟨hcosLow, hcosHigh⟩ := hsin (x + halfPi)
    exact ⟨_, _, hsinLow, hsinHigh, hcosLow, hcosHigh,
      wordResponse_eq_plain _ ▸ answers_sin x s, wordResponse_eq_plain _ ▸ answers_cos x s⟩
  case periodic =>
    have hreduced : sinCore s.cfg.sinLut (x + 0x0006487E#32) = sinCore s.cfg.sinLut x := by
      rw [sinCore_eq, sinCore_eq, toInt_add_twoPi hsum, Int.add_emod_right]
    have hanswer := answers_sin (x + 0x0006487E#32) s
    rw [hreduced] at hanswer
    exact hanswer.trans (answers_sin x s).symm

/-! #### Oddness (R110) -/

/-- Reflecting the half turn swaps the entry below HALF_PI and the clamp, which is why the last entry must be ONE. -/
theorem sineOfHalfTurn_reflect {L : Nat → Word} (hlast : L 102943 = one) {u : Nat} (hpos : 0 < u) (h : u < 205887) :
    sineOfHalfTurn L (205887 - u) = sineOfHalfTurn L u := by
  have htwice : 205887 - (205887 - u) = u := by omega
  rw [sineOfHalfTurn, sineOfHalfTurn, htwice]
  obtain hlow | rfl | rfl | hhigh : u < 102943 ∨ u = 102943 ∨ u = 102944 ∨ 102944 < u := by omega
  · rw [if_neg (by omega), if_neg (by omega), if_pos hlow]
  · simp [hlast]
  · simp [hlast]
  · rw [if_pos (by omega), if_neg (by omega), if_neg (by omega)]

theorem sineOfReduced_neg {L : Nat → Word} (hzero : L 0 = 0#32) (hlast : L 102943 = one) {t : Nat} (hpos : 0 < t)
    (h : t < 411774) : sineOfReduced L (411774 - t) = -sineOfReduced L t := by
  rw [sineOfReduced_eq L h, sineOfReduced_eq L (t := 411774 - t) (by omega)]
  obtain hlow | rfl | hhigh := lt_trichotomy t 205887
  · have hreflect : 411774 - t - 205887 = 205887 - t := by omega
    rw [if_neg (by omega), if_pos hlow, hreflect, sineOfHalfTurn_reflect hlast hpos hlow]
  · simp [sineOfHalfTurn, hzero]
  · have hreflect : 411774 - t = 205887 - (t - 205887) := by omega
    rw [if_pos (by omega), if_neg (by omega), neg_neg, hreflect,
      sineOfHalfTurn_reflect hlast (by omega) (by omega)]

theorem sinCore_neg {lut : SinLut} (hzero : lutRead lut 0 = 0#32) (hlast : lutRead lut 102943 = one) {x : Word}
    (hmin : x ≠ 0x80000000#32) : sinCore lut (-x) = -sinCore lut x := by
  have hneg : (-x).toInt = -x.toInt := BitVec.toInt_neg_of_ne_intMin hmin
  have hlt := toInt_emod_twoPi_lt x
  rw [sinCore_eq, sinCore_eq, hneg]
  by_cases hmultiple : x.toInt % 411774 = 0
  · have hnegMultiple : -x.toInt % 411774 = 0 := by omega
    rw [hmultiple, hnegMultiple]
    simp [sineOfReduced, hzero]
  · have hcomplement : (-x.toInt % 411774).toNat = 411774 - (x.toInt % 411774).toNat := by omega
    rw [hcomplement, sineOfReduced_neg hzero hlast (by omega) hlt]

/-- Settles O44: negation takes the reduced angle t to TWO_PI - t, or leaves it 0. -/
theorem sineIsOdd : Obligations.SineIsOdd := by
  intro s x hzero hlast hmin
  exact ⟨sinCore s.cfg.sinLut x, answers_sin x s, sinCore_neg hzero hlast hmin ▸ answers_sin (-x) s⟩

/-! #### The sine series (R111) -/

theorem cast_div_bounds (m n : Nat) :
    (m : ℝ) / n - 1 < ((m / n : Nat) : ℝ) ∧ ((m / n : Nat) : ℝ) ≤ m / n :=
  ⟨Nat.floor_div_eq_div (K := ℝ) m n ▸ Nat.sub_one_lt_floor _, Nat.cast_div_le⟩

theorem floor_cast_div (m n : Nat) : ⌊(m : ℝ) / n⌋ = (m / n : Nat) := by
  rw [← Nat.floor_div_eq_div (K := ℝ), Int.natCast_floor_eq_floor (by positivity)]

/-- What the integer loop of `sineScaled` approximates: the loop without rounding, from `a` on, over the divisors `ds`.
`SeriesClose.foldl` ties it to the model. -/
noncomputable def sineSeries (u : ℝ) (ds : List Nat) (a : ℝ) : ℝ := ds.foldl (fun a d => 1 - u * a / d) a

/-- The loop's word `acc` stands for the real number `a`, scaled by 2^64. -/
def SeriesClose (acc : Nat) (a : ℝ) : Prop := 0 ≤ a ∧ a ≤ 1 ∧ |(acc : ℝ) - 2 ^ 64 * a| ≤ 2

/-- One round of the loop: rounding the quotient down adds at most 1 to the error, and what was there shrinks, as u is
less than half of every divisor. -/
theorem SeriesClose.round {u a : ℝ} {xx acc d : Nat} (h : SeriesClose acc a) (hxx : (xx : ℝ) = 2 ^ 64 * u)
    (hu : u ≤ 5 / 2) (hd : 6 ≤ d) :
    SeriesClose (2 ^ 64 - xx * acc / (d * 2 ^ 64)) (1 - u * a / d) := by
  obtain ⟨ha0, ha1, herr⟩ := h
  have hd6 : (6 : ℝ) ≤ d := by exact_mod_cast hd
  have hu0 : 0 ≤ u := by have := Nat.cast_nonneg (α := ℝ) xx; linarith
  have hr : u / d ≤ 1 / 2 := by rw [div_le_iff₀ (by linarith)]; linarith
  have hr0 : 0 ≤ u / d := by positivity
  have hquotient : ((xx * acc : Nat) : ℝ) / ((d * 2 ^ 64 : Nat) : ℝ) = u / d * acc := by
    push_cast
    rw [hxx]
    ring
  obtain ⟨hlow, hhigh⟩ := cast_div_bounds (xx * acc) (d * 2 ^ 64)
  rw [hquotient] at hlow hhigh
  generalize xx * acc / (d * 2 ^ 64) = q at *
  rw [mul_div_right_comm]
  generalize u / d = r at *
  have hprod0 : 0 ≤ r * a := mul_nonneg hr0 ha0
  have hprod1 : r * a ≤ 1 / 2 := by nlinarith
  have hshrunk : |r * acc - 2 ^ 64 * (r * a)| ≤ 1 := by
    have hfactor : r * acc - 2 ^ 64 * (r * a) = r * (acc - 2 ^ 64 * a) := by ring
    rw [hfactor, abs_mul, abs_of_nonneg hr0]
    nlinarith [abs_nonneg ((acc : ℝ) - 2 ^ 64 * a)]
  rw [abs_le] at hshrunk
  have hfits : q ≤ 2 ^ 64 := by
    have : (q : ℝ) ≤ 2 ^ 64 := by linarith
    exact_mod_cast this
  refine ⟨by linarith, by linarith, ?_⟩
  rw [Nat.cast_sub hfits, abs_le]
  push_cast
  constructor <;> linarith

theorem SeriesClose.foldl {u : ℝ} {xx : Nat} (hxx : (xx : ℝ) = 2 ^ 64 * u) (hu : u ≤ 5 / 2) {ds : List Nat}
    (hds : ∀ d ∈ ds, 6 ≤ d) {acc : Nat} {a : ℝ} (h : SeriesClose acc a) :
    SeriesClose (ds.foldl (fun acc d => 2 ^ 64 - xx * acc / (d * 2 ^ 64)) acc) (sineSeries u ds a) := by
  induction ds generalizing acc a with
  | nil => exact h
  | cons d ds ih =>
    obtain ⟨hd, hds⟩ := List.forall_mem_cons.mp hds
    exact ih hds (h.round hxx hu hd)

theorem sine_terms_antitone {x : ℝ} (h0 : 0 ≤ x) (h : x ^ 2 ≤ 6) :
    Antitone fun n : Nat => x ^ (2 * n + 1) / (2 * n + 1).factorial := by
  refine antitone_nat_of_succ_le fun n => ?_
  have hfactorial : ((2 * (n + 1) + 1).factorial : ℝ) = (2 * n + 3) * (2 * n + 2) * (2 * n + 1).factorial := by
    rw [Nat.mul_succ, Nat.factorial_succ, Nat.factorial_succ]
    push_cast
    ring
  have hdivisor : (6 : ℝ) ≤ (2 * n + 3) * (2 * n + 2) := by nlinarith [Nat.cast_nonneg (α := ℝ) n]
  have hpower : x ^ (2 * (n + 1) + 1) = x ^ 2 * x ^ (2 * n + 1) := by ring
  rw [hfactorial, hpower, mul_div_mul_comm]
  exact mul_le_of_le_one_left (by positivity) ((div_le_one (by positivity)).mpr (h.trans hdivisor))

/-- The 12 divisors stand for the first 13 terms. -/
theorem sum_sine_terms (x : ℝ) :
    ∑ n ∈ Finset.range 13, (-1) ^ n * (x ^ (2 * n + 1) / (2 * n + 1).factorial) =
      x * sineSeries (x ^ 2) sineDivisors 1 := by
  simp only [Finset.sum_range_succ, Finset.sum_range_zero, sineSeries, sineDivisors]
  norm_num [Nat.factorial]
  ring

/-- The terms alternate and shrink, so those that the divisors stand for miss the sine by less than the next one. -/
theorem sineSeries_close {x : ℝ} (h0 : 0 ≤ x) (h : x ≤ 1.571) :
    |x * sineSeries (x ^ 2) sineDivisors 1 - Real.sin x| ≤ 1 / 2 ^ 64 := by
  have hanti := sine_terms_antitone h0 (by nlinarith)
  have hsum := (Real.hasSum_sin x).tendsto_sum_nat
  simp only [mul_div_assoc] at hsum
  have hlow := hanti.alternating_series_le_tendsto hsum 7
  have hhigh := hanti.tendsto_le_alternating_series hsum 6
  have hlast : x ^ 27 / (27 : Nat).factorial ≤ 1 / 2 ^ 64 :=
    calc x ^ 27 / (27 : Nat).factorial ≤ 1.571 ^ 27 / (27 : Nat).factorial := by gcongr
      _ ≤ 1 / 2 ^ 64 := by norm_num [Nat.factorial]
  rw [Finset.sum_range_succ] at hlow
  rw [← sum_sine_terms, abs_le]
  norm_num at hlow hhigh hlast ⊢
  constructor <;> linarith

theorem sineScaled_eq (i : Nat) :
    sineScaled i =
      i * 2 ^ 48 * sineDivisors.foldl
        (fun acc d => 2 ^ 64 - i * 2 ^ 48 * (i * 2 ^ 48) / 2 ^ 64 * acc / (d * 2 ^ 64)) (2 ^ 64) / 2 ^ 64 := rfl

theorem sineScaled_close {i : Nat} (h : i < 102944) :
    |(sineScaled i : ℝ) - 2 ^ 64 * Real.sin (i / 65536)| ≤ 6 := by
  have hi : (i : ℝ) ≤ 102944 := by exact_mod_cast h.le
  obtain ⟨x, hx⟩ : ∃ x : ℝ, x = i / 65536 := ⟨_, rfl⟩
  have h0 : 0 ≤ x := by rw [hx]; positivity
  have hhigh : x ≤ 1.571 := by rw [hx]; linarith
  have hangle : ((i * 2 ^ 48 : Nat) : ℝ) = 2 ^ 64 * x := by rw [hx]; push_cast; ring
  have hsquare : ((i * 2 ^ 48 * (i * 2 ^ 48) / 2 ^ 64 : Nat) : ℝ) = 2 ^ 64 * x ^ 2 := by
    have hexact : i * 2 ^ 48 * (i * 2 ^ 48) / 2 ^ 64 = i * i * 2 ^ 32 :=
      Nat.div_eq_of_eq_mul_left (by decide) (by ring)
    rw [hexact, hx]
    push_cast
    ring
  have hstart : SeriesClose (2 ^ 64) 1 := ⟨by norm_num, le_rfl, by norm_num⟩
  obtain ⟨-, -, hloop⟩ := hstart.foldl hsquare (by nlinarith) (ds := sineDivisors) (by decide)
  have hseries := sineSeries_close h0 hhigh
  rw [sineScaled_eq, ← hx]
  generalize sineDivisors.foldl _ _ = acc at *
  generalize sineSeries (x ^ 2) sineDivisors 1 = a at *
  obtain ⟨hfloor, hceil⟩ := cast_div_bounds (i * 2 ^ 48 * acc) (2 ^ 64)
  rw [Nat.cast_mul, hangle] at hfloor hceil
  push_cast at hfloor hceil
  rw [abs_le] at *
  constructor <;> nlinarith

/-! #### No angle of the table has its sine near a tie (R111)

An accurate series alone does not fix the rounded entry: no theorem bounds how near sin(i / 65536) x 65536 comes to
half an odd integer, and R111 reports the gap as computed. So the gap is computed here as well, at each index, on a
vector that is turned from one angle to the next; `Tracks.turn` proves how far it is from the real sine. -/

/-- cos(1 / 65536) and sin(1 / 65536), scaled by 2^64 (`step_close`). -/
def cosStep : Nat := 2 ^ 64 - 2 ^ 31
def sinStep : Nat := 2 ^ 48 - 10923

/-- The vector (`c`, `s`) turned by 1 / 65536 rad. These functions and the check below run at every index of the table,
so they name Nat's own operations, which the kernel computes at once. -/
def turnSine (s c : Nat) : Nat := ((s.mul cosStep).add (c.mul sinStep)).div (2 ^ 64)
def turnCosine (s c : Nat) : Nat := ((c.mul cosStep).sub (s.mul sinStep)).div (2 ^ 64)

/-- The word `s`, of scale 2^48, is at least 2^20 away from every tie. -/
def clearOfTie (s : Nat) : Bool := ((s.add (2 ^ 47 - 2 ^ 20)).mod (2 ^ 48)).ble (2 ^ 48 - 2 ^ 21)

/-- The sines of (`c`, `s`) and of its next n - 1 turns are clear of ties. -/
def clearFor : Nat → Nat → Nat → Bool
  | 0, _, _ => true
  | n + 1, s, c => clearOfTie s && clearFor n (turnSine s c) (turnCosine s c)

theorem clearFor_quadrant : clearFor 102944 0 (2 ^ 64) = true := by decide +kernel

/-- The vector (`c`, `s`), as a complex number. -/
def turnVector (s c : Nat) : ℂ := ⟨c, s⟩

/-- The unit vector at the angle n / 65536, scaled by 2^64. -/
noncomputable def exactVector (n : Nat) : ℂ := (2 ^ 64 : ℝ) • Complex.exp ((n / 65536 : ℝ) * Complex.I)

@[simp] theorem turnVector_re (s c : Nat) : (turnVector s c).re = c := rfl
@[simp] theorem turnVector_im (s c : Nat) : (turnVector s c).im = s := rfl

@[simp] theorem exactVector_re (n : Nat) : (exactVector n).re = 2 ^ 64 * Real.cos (n / 65536) := by
  rw [exactVector, Complex.smul_re, Complex.exp_ofReal_mul_I_re, smul_eq_mul]

@[simp] theorem exactVector_im (n : Nat) : (exactVector n).im = 2 ^ 64 * Real.sin (n / 65536) := by
  rw [exactVector, Complex.smul_im, Complex.exp_ofReal_mul_I_im, smul_eq_mul]

theorem norm_exactVector (n : Nat) : ‖exactVector n‖ = 2 ^ 64 := by
  rw [exactVector, norm_smul, Complex.norm_exp_ofReal_mul_I, mul_one]
  norm_num

theorem exactVector_mul_step (n : Nat) : exactVector n * exactVector 1 = (2 ^ 64 : ℝ) • exactVector (n + 1) := by
  rw [exactVector, exactVector, exactVector, smul_mul_smul_comm, ← Complex.exp_add, mul_smul]
  push_cast
  ring_nf

/-- The constants are the first terms of the two series. -/
theorem step_close : ‖turnVector sinStep cosStep - exactVector 1‖ ≤ 1 := by
  have hcos := abs_le.mp (Real.cos_bound (x := 1 / 65536) (by norm_num [abs_le]))
  have hsin := abs_le.mp (Real.sin_bound (x := 1 / 65536) (by norm_num [abs_le]))
  norm_num at hcos hsin
  have hre : |(cosStep : ℝ) - 2 ^ 64 * Real.cos (1 / 65536)| ≤ 1 / 2 := by
    norm_num [cosStep, abs_le]
    constructor <;> linarith
  have him : |(sinStep : ℝ) - 2 ^ 64 * Real.sin (1 / 65536)| ≤ 1 / 2 := by
    norm_num [sinStep, abs_le]
    constructor <;> linarith
  refine (Complex.norm_le_abs_re_add_abs_im _).trans ?_
  rw [Complex.sub_re, Complex.sub_im, turnVector_re, turnVector_im, exactVector_re, exactVector_im, Nat.cast_one]
  linarith

theorem norm_step_le : ‖turnVector sinStep cosStep‖ ≤ 2 ^ 64 + 1 := by
  have htriangle := norm_sub_norm_le (turnVector sinStep cosStep) (exactVector 1)
  rw [norm_exactVector] at htriangle
  linarith [step_close]

/-- R102: the angles of the table stay below the real pi / 2, so no turn up to the last index has a negative cosine. -/
theorem cos_ge_of_lt {n : Nat} (h : n < 102944) : 1 / 2 ^ 18 ≤ Real.cos (n / 65536) := by
  have hn : (n : ℝ) ≤ 102943 := by exact_mod_cast Nat.le_of_lt_succ h
  have hn0 := Nat.cast_nonneg (α := ℝ) n
  have hpi := Real.pi_gt_d6
  have hjordan := Real.mul_le_sin (x := Real.pi / 2 - n / 65536) (by linarith) (by linarith)
  have hslope : 1 / 2 ≤ 2 / Real.pi := by
    rw [div_le_div_iff₀ (by norm_num) Real.pi_pos]
    linarith [Real.pi_le_four]
  rw [Real.sin_pi_div_two_sub] at hjordan
  nlinarith

/-- Rounding down takes less than one from each component. -/
theorem turn_close {s c : Nat} (h : s * sinStep ≤ c * cosStep) :
    ‖(2 ^ 64 : ℝ) • turnVector (turnSine s c) (turnCosine s c) - turnVector s c * turnVector sinStep cosStep‖ ≤
      2 * 2 ^ 64 := by
  have hsin : turnSine s c = (s * cosStep + c * sinStep) / 2 ^ 64 := rfl
  have hcos : turnCosine s c = (c * cosStep - s * sinStep) / 2 ^ 64 := rfl
  obtain ⟨hsinLow, hsinHigh⟩ := cast_div_bounds (s * cosStep + c * sinStep) (2 ^ 64)
  obtain ⟨hcosLow, hcosHigh⟩ := cast_div_bounds (c * cosStep - s * sinStep) (2 ^ 64)
  rw [← hsin] at hsinLow hsinHigh
  rw [← hcos, Nat.cast_sub h] at hcosLow hcosHigh
  push_cast at hsinLow hsinHigh hcosLow hcosHigh
  refine (Complex.norm_le_abs_re_add_abs_im _).trans ?_
  simp only [Complex.sub_re, Complex.sub_im, Complex.smul_re, Complex.smul_im, Complex.mul_re, Complex.mul_im,
    turnVector_re, turnVector_im, smul_eq_mul]
  rw [two_mul]
  exact add_le_add (abs_le.mpr ⟨by linarith, by linarith⟩) (abs_le.mpr ⟨by linarith, by linarith⟩)

/-- The vector (`c`, `s`) follows the exact one at `n` steps; a turn adds at most 4 to the error. -/
def Tracks (n s c : Nat) : Prop := ‖turnVector s c - exactVector n‖ ≤ 4 * n

theorem tracks_zero : Tracks 0 0 (2 ^ 64) := by
  have hstart : turnVector 0 (2 ^ 64) = exactVector 0 := by
    apply Complex.ext <;> norm_num
  rw [Tracks, hstart, sub_self]
  simp

/-- A turn multiplies by a vector that is longer than 2^64 by at most 1, and off the exact step by at most 1. -/
theorem Tracks.mul_step_close {n s c : Nat} (h : Tracks n s c) (hn : n < 102944) :
    ‖turnVector s c * turnVector sinStep cosStep - (2 ^ 64 : ℝ) • exactVector (n + 1)‖ ≤ (4 * n + 2) * 2 ^ 64 := by
  have hn' : (n : ℝ) ≤ 102944 := by exact_mod_cast hn.le
  calc
    _ = ‖(turnVector s c - exactVector n) * turnVector sinStep cosStep +
          exactVector n * (turnVector sinStep cosStep - exactVector 1)‖ := by
      rw [← exactVector_mul_step]
      ring_nf
    _ ≤ ‖turnVector s c - exactVector n‖ * ‖turnVector sinStep cosStep‖ +
          ‖exactVector n‖ * ‖turnVector sinStep cosStep - exactVector 1‖ :=
      (norm_add_le _ _).trans_eq (by rw [norm_mul, norm_mul])
    _ ≤ 4 * n * (2 ^ 64 + 1) + 2 ^ 64 * 1 := by
      rw [norm_exactVector]
      gcongr
      exacts [h, norm_step_le, step_close]
    _ ≤ (4 * n + 2) * 2 ^ 64 := by linarith

theorem Tracks.turn {n s c : Nat} (h : Tracks n s c) (hn : n + 1 < 102944) :
    Tracks (n + 1) (turnSine s c) (turnCosine s c) := by
  have hclose := h.mul_step_close (by omega)
  have hnonneg : s * sinStep ≤ c * cosStep := by
    have hn' : (n : ℝ) ≤ 102944 := by exact_mod_cast (by omega : n ≤ 102944)
    have hcos := cos_ge_of_lt hn
    have hre := (Complex.abs_re_le_norm _).trans hclose
    simp only [Complex.sub_re, Complex.smul_re, Complex.mul_re, turnVector_re, turnVector_im, exactVector_re,
      smul_eq_mul] at hre
    rw [abs_le] at hre
    have hcast : (s * sinStep : ℝ) ≤ c * cosStep := by linarith
    exact_mod_cast hcast
  have hscaled : ‖(2 ^ 64 : ℝ) • (turnVector (turnSine s c) (turnCosine s c) - exactVector (n + 1))‖ ≤
      2 * 2 ^ 64 + (4 * n + 2) * 2 ^ 64 := by
    rw [smul_sub]
    exact (norm_sub_le_norm_sub_add_norm_sub _ _ _).trans (add_le_add (turn_close hnonneg) hclose)
  rw [norm_smul, Real.norm_of_nonneg (by norm_num)] at hscaled
  rw [Tracks]
  push_cast
  linarith

theorem clearFor_succ {n s c : Nat} :
    clearFor (n + 1) s c = true ↔ clearOfTie s = true ∧ clearFor n (turnSine s c) (turnCosine s c) = true :=
  Bool.and_eq_true_iff

/-- The check finds, for each index it walks, a word near the sine and clear of ties. -/
theorem exists_clear_of_clearFor {k n s c : Nat} (hclear : clearFor k s c = true) (h : Tracks n s c)
    (hk : n + k ≤ 102944) {i : Nat} (hlow : n ≤ i) (hhigh : i < n + k) :
    ∃ s', clearOfTie s' = true ∧ |(s' : ℝ) - 2 ^ 64 * Real.sin (i / 65536)| ≤ 4 * (i : ℝ) := by
  induction k generalizing n s c with
  | zero => omega
  | succ k ih =>
    obtain ⟨hs, hrest⟩ := clearFor_succ.mp hclear
    obtain rfl | hlt := hlow.eq_or_lt
    · refine ⟨s, hs, ?_⟩
      have him := (Complex.abs_im_le_norm _).trans h
      rwa [Complex.sub_im, turnVector_im, exactVector_im] at him
    · exact ih hrest (h.turn (by omega)) (by omega) hlt (by omega)

/-- Rounded to a multiple of 2^48, a real number near a word clear of ties is that word rounded. -/
theorem floor_eq_of_clearOfTie {s : Nat} (hclear : clearOfTie s = true) {r : ℝ} (h : |(s : ℝ) - r| < 2 ^ 20) :
    ⌊(r + 2 ^ 47) / 2 ^ 48⌋ = ((s + 2 ^ 47) / 2 ^ 48 : Nat) := by
  have hmod : (s + (2 ^ 47 - 2 ^ 20)) % 2 ^ 48 ≤ 2 ^ 48 - 2 ^ 21 := Nat.le_of_ble_eq_true hclear
  have hlow : (s + 2 ^ 47) / 2 ^ 48 * 2 ^ 48 + 2 ^ 20 ≤ s + 2 ^ 47 := by omega
  have hhigh : s + 2 ^ 47 + 2 ^ 20 ≤ ((s + 2 ^ 47) / 2 ^ 48 + 1) * 2 ^ 48 := by omega
  generalize (s + 2 ^ 47) / 2 ^ 48 = k at *
  have hlow' : (k : ℝ) * 2 ^ 48 + 2 ^ 20 ≤ s + 2 ^ 47 := by exact_mod_cast hlow
  have hhigh' : (s : ℝ) + 2 ^ 47 + 2 ^ 20 ≤ (k + 1) * 2 ^ 48 := by exact_mod_cast hhigh
  rw [abs_lt] at h
  rw [Int.floor_eq_iff, Int.cast_natCast, le_div_iff₀ (by norm_num), div_lt_iff₀ (by norm_num)]
  constructor <;> linarith

/-- The series and the turned vector both lie near the real sine, which is clear of ties, so all three round alike. -/
theorem toInt_candidateEntry {i : Nat} (h : i < 102944) :
    (candidateEntry i).toInt = ⌊Real.sin (i / 65536) * 65536 + 1 / 2⌋ := by
  obtain ⟨s, hclear, hturns⟩ :=
    exists_clear_of_clearFor clearFor_quadrant tracks_zero (by decide) (Nat.zero_le i) (by omega)
  have hi : (i : ℝ) ≤ 102944 := by exact_mod_cast h.le
  have hseries := sineScaled_close h
  have hsine : ⌊(2 ^ 64 * Real.sin (i / 65536) + 2 ^ 47) / 2 ^ 48⌋ = ((s + 2 ^ 47) / 2 ^ 48 : Nat) :=
    floor_eq_of_clearOfTie hclear (by linarith)
  have hscaled : ⌊((sineScaled i : ℝ) + 2 ^ 47) / 2 ^ 48⌋ = ((s + 2 ^ 47) / 2 ^ 48 : Nat) := by
    refine floor_eq_of_clearOfTie hclear ?_
    rw [abs_sub_comm] at hseries
    linarith [abs_sub_le (s : ℝ) (2 ^ 64 * Real.sin (i / 65536)) (sineScaled i)]
  have hentry : ⌊((sineScaled i : ℝ) + 2 ^ 47) / 2 ^ 48⌋ = ((sineScaled i + 2 ^ 47) / 2 ^ 48 : Nat) := by
    exact_mod_cast floor_cast_div (sineScaled i + 2 ^ 47) (2 ^ 48)
  have hunit : (2 ^ 64 * Real.sin (i / 65536) + 2 ^ 47) / 2 ^ 48 = Real.sin (i / 65536) * 65536 + 1 / 2 := by ring
  have hbound : ⌊Real.sin (i / 65536) * 65536 + 1 / 2⌋ < 65537 := by
    rw [Int.floor_lt]
    norm_num
    linarith [Real.sin_le_one (i / 65536)]
  rw [hunit] at hsine
  rw [candidateEntry_toInt]
  omega

/-! #### The candidate table conforms (R111) -/

theorem candidateEntry_sin203 : candidateEntry 78847 = 0x0000EEE4#32 := by decide +kernel
theorem candidateEntry_cos4203 : candidateEntry 73945 = 0x0000E758#32 := by decide +kernel

/-- Constraint 3: no field of the policy but NO_ROUNDING reaches a quotient in range. -/
theorem divSResponse_tan2193 (p : Policy) (h : p.noRounding = false) :
    (divSResponse p (candidateEntry 11322) (candidateEntry 91622)).y = 0x00002CAC#64 := by
  rw [divSResponse_eq p _ (by decide +kernel), h]
  decide +kernel

theorem lutConforms_candidate {c : Config} (h : c.sinLut = []) : LutConforms c := by
  refine ⟨?vectors, fun i _ => ?magnitudes⟩
  case vectors =>
    simp only [lutAccepted, h, Bool.and_eq_true, decide_eq_true_eq]
    exact ⟨⟨candidateEntry_sin203, candidateEntry_cos4203⟩, divSResponse_tan2193 _ rfl⟩
  case magnitudes =>
    rw [h, lutRead_nil]
    exact (candidateEntry_range i).1

/-- Settles O42: the entries by `toInt_candidateEntry`, and R111's constraints at the entries that they name. -/
theorem resetTableIsTheRoundedSine : Obligations.ResetTableIsTheRoundedSine := by
  refine ⟨rfl, fun s h => ⟨lutConforms_candidate h, fun i hi => ?_⟩⟩
  rw [h, lutRead_nil]
  exact toInt_candidateEntry hi

end Sys2Proof.Machine

end

/-! ### 60_exceptions.md: the illegal-command response, and V (R112 to R115) -/

section

namespace Sys2Proof.Machine

/-! #### A reserved CMD (R113) -/

theorem acceptance_of_decode_error {s : State} {e : ReservedCmd} (ha : s.accepts = true)
    (hd : decode s.request = .error e) : acceptance s = raiseIllegalCommand s := by
  simp [acceptance, acceptCommand, ha, hd]

/-- Settles O9: acceptance answers a reserved CMD by the exception alone, and an admissible edge with rst = 0 goes on
from what it answers. -/
theorem reservedCommandIsAnsweredIllegal : Obligations.ReservedCommandIsAnsweredIllegal := by
  intro s e hadm hr hvalid hready hd
  have ha : s.accepts = true := (accepts_iff s).mpr ⟨hr, hvalid, hready⟩
  exact step_of_admissible hadm hr ((acceptance_of_decode_error ha hd).trans (raiseIllegalCommand_eq s))

/-! #### V belongs to mode C (R21, R42, R67) -/

@[simp] theorem wordResponse_v (w : Word) : (wordResponse w).v = false := rfl
@[simp] theorem dwordResponse_v (w : DWord) : (dwordResponse w).v = false := rfl
@[simp] theorem modeW_v (r : CoreResult) : (modeW r).v = false := rfl
@[simp] theorem modeS_v (p : Policy) (clamp : Word) (r : CoreResult) : (modeS p clamp r).v = false := rfl
@[simp] theorem divSResponse_v (p : Policy) (a b : Word) : (divSResponse p a b).v = false := rfl

/-- In every row of `responseOf` but the four of mode C, V is 0 by the shape of the response. -/
theorem modeC_command_of_responseOf_v {p : Policy} {lut : SinLut} {i : Instr} (h : (responseOf p lut i).v = true) :
    ∃ a b : Word, i = .addC a b ∨ i = .subC a b ∨ i = .mulC a b ∨ i = .divC a b := by
  cases i with
  | addC a b => exact ⟨a, b, .inl rfl⟩
  | subC a b => exact ⟨a, b, .inr (.inl rfl)⟩
  | mulC a b => exact ⟨a, b, .inr (.inr (.inl rfl))⟩
  | divC a b => exact ⟨a, b, .inr (.inr (.inr rfl))⟩
  | _ => simp [responseOf] at h

/-- Settles O10: the one response is `responseOf`, which is never illegal and sets V in mode C alone. -/
theorem everyCommandAnswersOnce : Obligations.EveryCommandAnswersOnce := fun i s =>
  ⟨responseOf s.cfg.policy s.cfg.sinLut i, answersWith_responseOf i s, responseOf_ill _ _ i,
    modeC_command_of_responseOf_v⟩

end Sys2Proof.Machine

end

/-! ### 70_reset_and_hazards.md: reset, stops, the waiting host, and the end of a run (R123 to R132) -/

section

namespace Sys2Proof.Machine

/-! #### The end of a run without a command (R131, R132) -/

/-- What holds while nothing is left to present: no edge is planned, no request stands on the port, and no edge is a
reset. The idle edges of log 2 keep it (`State.HostIdle.after_edge`). -/
structure State.HostIdle (s : State) : Prop where
  inv        : s.Inv
  admissible : s.Admissible
  rst        : s.rst = false
  reqValid   : s.reqValid = false
  agenda     : s.agenda = []

/-- R129: an admissible host that presents nothing has nothing to hold. -/
theorem held_eq_none_of_not_reqValid {s : State} (hr : s.rst = false) (hvalid : s.reqValid = false)
    (ha : s.Admissible) : s.held = none := by
  by_contra hheld
  obtain ⟨r, hheld⟩ := Option.ne_none_iff_exists'.mp hheld
  have hbroken : s.holdBroken = true := (holdBroken_iff s).mpr ⟨r, hheld, .inl hvalid⟩
  obtain h | h := ha.holds
  · simp [hr] at h
  · simp [hbroken] at h

theorem deliver_q_of_oldest_valid {s : State} (hrsp : s.rsp = s.q.head?) (hready : s.rspReady = true) :
    (deliver s).q = s.q.tail := by
  cases hq : s.q with
  | nil => simp [deliver, hrsp, hq]
  | cons r rest => simp [deliver, hrsp, hq, hready]

theorem responseAt_true_of_oldest {s : State} (h : ∀ r, s.rsp = some r → s.q.head? = some r) :
    responseAt s true = s.q.head? := by
  cases hrsp : s.rsp with
  | none => simp [responseAt, hrsp]
  | some r => rw [responseAt_of_valid hrsp, h r hrsp]

namespace State.HostIdle

variable {s u : State}

theorem accepts_eq_false (h : s.HostIdle) : s.accepts = false := by
  simp [State.accepts, h.reqValid]

theorem step_eq_finishEdge (h : s.HostIdle) : step s = .next (finishEdge s) :=
  step_of_admissible h.admissible h.rst (by simp [acceptance, h.accepts_eq_false])

theorem finishEdge_eq_driveIdle (h : s.HostIdle) : finishEdge s = driveIdle (deliver (noteHeld s)) :=
  present_of_agenda_nil (by simpa using h.agenda)

theorem after_edge (h : s.HostIdle) : (finishEdge s).HostIdle where
  inv := everyStepKeepsTheInvariant s _ h.inv h.step_eq_finishEdge
  admissible := by
    refine ⟨?_, by simpa using h.admissible.table, ?_, .inr (holdBroken_of_held_none ?_)⟩
    all_goals simp [h.finishEdge_eq_driveIdle, driveIdle, State.strapHeld, h.reqValid]
  rst := by simp [h.finishEdge_eq_driveIdle, driveIdle]
  reqValid := by simp [h.finishEdge_eq_driveIdle, driveIdle, h.reqValid]
  agenda := by simpa [h.finishEdge_eq_driveIdle, driveIdle] using h.agenda

/-- After one idle edge the oldest of Q is valid and the host is ready for it, so every further edge delivers it. -/
theorem deliver_finishEdge_q (h : s.HostIdle) :
    (deliver (finishEdge s)).q = (finishEdge s).q.tail := by
  have hin : (deliver (noteHeld s)).InvInEdge := deliver_keeps_invInEdge (noteHeld_keeps_invInEdge h.inv.inEdge)
  rw [h.finishEdge_eq_driveIdle]
  exact deliver_q_of_oldest_valid (responseAt_true_of_oldest hin.oldest) rfl

/-- The first idle edge may deliver nothing; each of the `n` after it takes the oldest of Q. -/
theorem exists_run_q (h : s.HostIdle) (n : Nat) :
    ∃ u, Sys2Proof.core.run (n + 1) s = .next u ∧ u.q = (deliver s).q.drop n := by
  induction n generalizing s with
  | zero => exact ⟨_, run_succ_of_next h.step_eq_finishEdge, finishEdge_q s⟩
  | succ n ih =>
    obtain ⟨u, hrun, hq⟩ := ih h.after_edge
    refine ⟨u, (run_succ_of_next h.step_eq_finishEdge).trans hrun, ?_⟩
    rw [hq, h.deliver_finishEdge_q, finishEdge_q, List.drop_tail]

/-- Idle edges keep the host idle, and move responses from Q to the host without losing or reordering any. -/
theorem after_run {n : Nat} (h : s.HostIdle) (hrun : Sys2Proof.core.run n s = .next u) :
    u.HostIdle ∧ u.taken ++ u.q = s.taken ++ s.q := by
  induction n generalizing s with
  | zero => cases hrun; exact ⟨h, rfl⟩
  | succ n ih =>
    rw [run_succ_of_next h.step_eq_finishEdge] at hrun
    obtain ⟨hidle, horder⟩ := ih h.after_edge hrun
    refine ⟨hidle, horder.trans ?_⟩
    rw [finishEdge_taken, finishEdge_q, deliver_keeps_order h.inv.oldest]

theorem runOver (h : s.HostIdle) (hq : s.q = []) : s.RunOver :=
  ⟨by simp [h.agenda], h.reqValid, held_eq_none_of_not_reqValid h.rst h.reqValid h.admissible, hq⟩

/-- R131: Q is empty after one edge more than it is long. -/
theorem exists_run_drained (h : s.HostIdle) :
    ∃ t, Sys2Proof.core.run (s.q.length + 1) s = .next t ∧ t.q = [] := by
  obtain ⟨t, hrun, hq⟩ := h.exists_run_q s.q.length
  exact ⟨t, hrun, hq.trans (List.drop_eq_nil_of_le (deliver_length_le s))⟩

/-- The host has then taken what was in flight, in order. -/
theorem taken_of_drained {n : Nat} (h : s.HostIdle) (hrun : Sys2Proof.core.run n s = .next u) (hq : u.q = []) :
    u.taken = s.taken ++ s.q := by
  simpa [hq] using (h.after_run hrun).2

end State.HostIdle

/-- R132: a run that is over after `k` edges ends at a first such edge. -/
theorem exists_runEndsAt_le {k : Nat} {s t : State} (hrun : Sys2Proof.core.run k s = .next t) (hover : t.RunOver) :
    ∃ n u, n ≤ k ∧ RunEndsAt n s u := by
  classical
  have hex : ∃ n u, Sys2Proof.core.run n s = .next u ∧ u.RunOver := ⟨k, t, hrun, hover⟩
  obtain ⟨u, hu, huover⟩ := Nat.find_spec hex
  exact ⟨Nat.find hex, u, Nat.find_min' hex ⟨t, hrun, hover⟩, hu, huover,
    fun m v hm hv hvover => Nat.find_min hex hm ⟨v, hv, hvover⟩⟩

/-- Settles O23: after one idle edge every edge delivers the oldest of Q, so the run is over in time; at its first edge
over, as at every edge, the responses taken and in flight are the same. -/
theorem idleRunDrainsTheQueue : Obligations.IdleRunDrainsTheQueue := by
  intro s hinv hadm hrst hvalid hagenda
  have h : s.HostIdle := ⟨hinv, hadm, hrst, hvalid, hagenda⟩
  obtain ⟨t, hrun, hq⟩ := h.exists_run_drained
  obtain ⟨ht, -⟩ := h.after_run hrun
  obtain ⟨n, u, hn, hend⟩ := exists_runEndsAt_le hrun (ht.runOver hq)
  have ⟨hu, ⟨_, _, _, huq⟩, _⟩ := hend
  exact ⟨⟨n, u, hn, hend, h.taken_of_drained hu huq⟩,
    t, hrun, ht.runOver hq, ht.agenda, h.taken_of_drained hrun hq⟩

/-- Settles O57: a valid response is the oldest of Q, and Q is empty. -/
theorem runEndsInTheCleanState : Obligations.RunEndsInTheCleanState := by
  intro s hinv ⟨_, _, hheld, hq⟩ hrst
  have hrsp : s.rsp = none := by
    cases h : s.rsp with
    | none => rfl
    | some r => simpa [hq] using hinv.oldest r h
  exact ⟨hq, hrsp, hheld, hrst⟩

/-! #### Reset (R123) -/

theorem present_rsp_of_empty {s : State} (hrsp : s.rsp = none) (hq : s.q = []) : (present s).rsp = none := by
  obtain ⟨e, req, rest, he⟩ := present_cases s
  rw [he]
  exact responseAt_of_empty hrsp hq e.answer

/-- Settles O13: reset empties Q, so no response can be shown at the next edge. -/
theorem resetEdgeEmptiesTheQueue : Obligations.ResetEdgeEmptiesTheQueue := fun s hadm hr =>
  ⟨present (resetEdge s), step_of_reset hadm hr, by simp, present_rsp_of_empty rfl rfl, by simp, by simp⟩

/-! #### The stops of an edge (R126, R129) -/

theorem step_of_strap_changed {s : State} (h : s.strapHeld = false) : step s = .refused .configChanged := by
  simp [step_eq, clockEdge, h]

theorem step_of_table_rejected {s : State} (hstrap : s.strapHeld = true) (h : lutAccepted s.cfg = false) :
    step s = .refused .sinLutRejected := by
  simp [step_eq, clockEdge, hstrap, h]

theorem lutAccepted_iff (c : Config) : lutAccepted c = true ↔
    lutRead c.sinLut 78847 = 0x0000EEE4#32 ∧ lutRead c.sinLut 73945 = 0x0000E758#32 ∧
      (divSResponse { c.policy with noRounding := false }
        (lutRead c.sinLut 11322) (lutRead c.sinLut 91622)).y = 0x00002CAC#64 := by
  simp [lutAccepted, and_assoc]

/-- Constraint 3 of R111, as the answer to a command: with rounding, DIV.S of the two entries is exactly 0x2CAC. -/
theorem answersWith_divS_of_lutAccepted {c : Config} (h : lutAccepted c = true) {u : State}
    (hu : u.cfg.policy = { c.policy with noRounding := false }) :
    AnswersWith (.divS (lutRead c.sinLut 11322) (lutRead c.sinLut 91622)) u ⟨0x00002CAC#64, false, false⟩ := by
  obtain ⟨-, -, hy⟩ := (lutAccepted_iff c).mp h
  rw [← hy, ← hu]
  exact answers_divS _ _ u

/-- Settles O18: pins that differ are not held; an accepted table meets each of the three constraints; no step writes the
configuration. -/
theorem configurationIsConstant : Obligations.ConfigurationIsConstant := by
  refine ⟨fun s p hp hne => ?pins, fun s hstrap hbad => ?table, fun _ _ => step_keeps_cfg⟩
  case pins =>
    refine step_of_strap_changed (Bool.eq_false_iff.mpr fun hheld => hne ?_)
    exact (strapHeld_iff s).mp hheld p hp
  case table =>
    refine step_of_table_rejected hstrap (Bool.eq_false_iff.mpr fun hlut => ?_)
    obtain ⟨hsin, hcos, -⟩ := (lutAccepted_iff s.cfg).mp hlut
    obtain h | h | h := hbad
    · exact h hsin
    · exact h hcos
    · exact h { s with cfg := { s.cfg with policy := { s.cfg.policy with noRounding := false } } } rfl
        (answersWith_divS_of_lutAccepted hlut rfl)

/-- Settles O16: the hold is checked once no other ground to stop stands (log 19). -/
theorem brokenHoldHasNoMove : Obligations.BrokenHoldHasNoMove := by
  intro s r hstrap hlut hread hrst hheld hbroken
  have hhold : s.holdBroken = true := (holdBroken_iff s).mpr ⟨r, hheld, hbroken⟩
  have hearly : (s.rspRead && s.rsp.isNone) = false := by
    cases h : s.rspRead with
    | false => rfl
    | true => simpa [Option.isSome_iff_ne_none] using hread h
  simp [step_eq, clockEdge, hstrap, hlut, hearly, hrst, hhold]

/-! #### A host that waits for a response (R128) -/

theorem hostRequest_eq_none {taken : List Response} {c : HostCommand} {k : Nat}
    (hc : c.a = .result k ∨ c.b = .result k) (hk : taken.length < k) : hostRequest taken c = none := by
  have hnone : operandWord taken (.result k) = none := operandWord_result_none hk
  obtain ha | hb := hc
  · simp [hostRequest, ha, hnone]
  · cases h : operandWord taken c.a <;> simp [hostRequest, h, hb, hnone]

theorem present_of_plannedRequest_none {s : State} {e : Edge} {rest : List Edge} (hs : s.agenda = e :: rest)
    (he : plannedRequest s e = none) : present s = driveIdle s := by
  simp [present, hs, he]

/-- Settles O19: the named response gives the operand no word, so the coming edge is an idle one. -/
theorem hostWaitsForTheResponseItNames : Obligations.HostWaitsForTheResponseItNames := by
  intro s e rest c k hs he hc hk
  have hplan : plannedRequest s e = none := by simp [plannedRequest, he, hostRequest_eq_none hc hk]
  rw [present_of_plannedRequest_none hs hplan]
  exact ⟨rfl, rfl, fun _ => request_driveIdle⟩

end Sys2Proof.Machine

end
